-- ==== Sys2Proof/Word.lean ====
section
/-! DEFINITION. The two word types of QSPI-XFER: the byte, the unit of transfer on the SPI side (R61), and
the 32-bit word of a requester access (R60). -/

namespace Sys2Proof

/-- A byte, the unit of transfer on the SPI bus (R61). -/
abbrev Byte := BitVec 8

/-- A 32-bit word: what one requester access moves (R60, R61). -/
abbrev Word := BitVec 32

end Sys2Proof
end

