-- ==== Sys2Proof/Config.lean ====
section
/-! DEFINITION. What an implementation of QSPI-XFER fixes (the parameters of R6), the bus events of R10 (the
oracle of R9 may depend on them), and the free values. -/

namespace Sys2Proof

/-- A bus event (R10): `c` is the controller core, `i` the chip-select line. -/
inductive BusEvent
  /-- Chip-select line `i` of core `c` goes low. -/
  | csLow (c : BitVec 1) (i : Nat)
  /-- One byte out and one byte in, in the same eight clocks (R66). -/
  | byte (c : BitVec 1) (i : Nat) (mosi miso : Byte)
  /-- Chip-select line `i` of core `c` goes high. -/
  | csHigh (c : BitVec 1) (i : Nat)
deriving DecidableEq, Repr

namespace Config

/-- What the shifter does when the RX FIFO is full (RX_FULL_POLICY, R6, R117): `stall` is the block's value,
`overflow` the alternative for a model of the source's own controller. -/
inductive RxFullPolicy
  | stall
  | overflow
deriving DecidableEq, Repr

/-- What an access does that R62 calls not legal: `refuse`, what R62 asks of a Lean model, or `ignore`, what R62
says the hardware does (log 7). -/
inductive BadAccessPolicy
  | refuse
  | ignore
deriving DecidableEq, Repr

/-- The parameters of R6 that are arguments of the model, held in the state's field `cfg` so that a claim
about every state is a claim about every parameter value; no step changes them (log 3, log 4). -/
structure Params where
  /-- TXD, the TX FIFO depth of both cores. -/
  txd : Nat
  /-- RXD, the RX FIFO depth of both cores. -/
  rxd : Nat
  /-- NCS, the chip-select lines of a core, 1 to 8. -/
  ncs : Nat
  /-- DUMMY_BYTE, the MOSI value of a dummy byte. -/
  dummyByte : Byte
  /-- QSPIX_BASE, where the register window stands on the requester's bus (R64). -/
  base : Nat
  /-- RX_FULL_POLICY. -/
  rxFull : RxFullPolicy
  /-- The model's own: which half of R62 it follows (log 7). -/
  badAccess : BadAccessPolicy
deriving DecidableEq, Repr

/-- NCTRL, the number of controller cores (R6). -/
def nctrl : Nat := 2

/-- MAX_DUMMY_BURST (R6, D33). -/
def maxDummyBurst : Nat := 240

/-- VERIFY_CHUNK, the bytes of one READ on the verify path (R6, D29). -/
def verifyChunk : Nat := 1024

/-- CRC_POLY (R6). -/
def crcPoly : BitVec 16 := 0x1021#16

/-- CRC_INIT (R6). -/
def crcInit : BitVec 16 := 0xFFFF#16

/-- The register window's length in bytes (R64). -/
def windowSize : Nat := 0x20

/-- DUMMY_BYTE of `State.reset`: free (R6 "OPEN", D9; log 3). -/
opaque dummyByte : Byte

/-- QSPIX_BASE of `State.reset`: free (R6 "OPEN", D2; log 3). -/
opaque qspixBase : Nat

/-- The oracle `draw_miso` of R9 where the state's list `miso` holds no answer: it may depend on the bus
history, the core, the chip-select line and the MOSI byte, and nothing else is known of it (log 5). -/
opaque freeMiso : List BusEvent → BitVec 1 → Nat → Byte → Byte

/-- Which of several enabled steps of the block goes first when `turns` names none: free (R7, D24; log 2). -/
opaque freeAgent : Nat → Nat

/-- The status byte FLASH_WAIT_IDLE tests where none came in: free (log 17). -/
opaque freeStatus : Nat → Byte

/-- The parameters `State.reset` stands with: one representative of R6's OPEN values (DESIGN CHOICE, log 3;
no statement rests on them). RX_FULL_POLICY is the block's value (R6, D8); an access that is not legal is refused
(R62). -/
def params : Params :=
  { txd := 4, rxd := 3, ncs := 8, dummyByte := dummyByte, base := qspixBase, rxFull := .stall,
    badAccess := .refuse }

/-- INIT_DONE[0] and INIT_DONE[1] of `State.reset`: inputs the spec leaves OPEN (D17); DESIGN CHOICE (log 3). -/
def initDoneAtReset : Bool := true

end Config

end Sys2Proof
end

