-- ==== Sys2Proof/Machine/Crc.lean ====
section
/-! DEFINITION. The arithmetic of the CRC unit (42_crc.md section 1). -/

namespace Sys2Proof.Machine

/-- One of the eight rounds of R160: shift left, and XOR with CRC_POLY where bit 15 was 1. -/
def crcShift (c : BitVec 16) : BitVec 16 :=
  if c.getLsbD 15 then (c <<< 1) ^^^ Config.crcPoly else c <<< 1

/-- `n` rounds of R160. -/
def crcShifts : Nat → BitVec 16 → BitVec 16
  | 0, c => c
  | n + 1, c => crcShifts n (crcShift c)

/-- `crc16_upd(c, b)` (R160): the byte enters at the top, then eight rounds. -/
def crc16Upd (c : BitVec 16) (b : Byte) : BitVec 16 := crcShifts 8 (c ^^^ (b.zeroExtend 16 <<< 8))

/-- The state after folding a byte string (R161, R168). -/
def crcFold (c : BitVec 16) (bytes : List Byte) : BitVec 16 := bytes.foldl crc16Upd c

/-- `CRC16(B)` (R161). -/
def crc16 (bytes : List Byte) : BitVec 16 := crcFold Config.crcInit bytes

end Sys2Proof.Machine
end

