-- ==== Sys2Proof/Syntax.lean ====
section
/-! DEFINITION. The instructions of QSPI-XFER, one constructor for each mnemonic of spec/opcode_table.json, and
the three forms in which a requester presents one (the table's three "spaces"). -/

namespace Sys2Proof

/-- The seven accesses that do nothing (R147): three reads that return 0 and four writes. -/
inductive IgnoredAccess
  | readCmd
  | readTxdata
  | readReserved
  | writeRxdata (v : Word)
  | writeSel (v : Word)
  | writeCrc (v : Word)
  | writeReserved (v : Word)
deriving DecidableEq, Repr

/-- The instructions: the commands and reserved OPs of the CMD word (R82), the register accesses (R89), and the
SPI-NOR commands of the client byte stream (R90). -/
inductive Instr
  /-- XFER (R83, R100): flags TXP, RXP, LAST, CRCEN. -/
  | xfer (txp rxp last crcen : Bool)
  /-- SELECT (R84, R140). -/
  | select (ctrl : BitVec 1) (ssmask : Byte)
  /-- CRCINIT (R85, R162). -/
  | crcinit
  /-- CRCFEED (R86, R163). -/
  | crcfeed (data : Byte)
  /-- A CMD word with a reserved OP (R82, R87); `rest` is its word[31:4]. -/
  | reservedOp0 (rest : BitVec 28)
  | reservedOp5 (rest : BitVec 28)
  | reservedOp6 (rest : BitVec 28)
  | reservedOp7 (rest : BitVec 28)
  | reservedOp8 (rest : BitVec 28)
  | reservedOp9 (rest : BitVec 28)
  | reservedOpA (rest : BitVec 28)
  | reservedOpB (rest : BitVec 28)
  | reservedOpC (rest : BitVec 28)
  | reservedOpD (rest : BitVec 28)
  | reservedOpE (rest : BitVec 28)
  | reservedOpF (rest : BitVec 28)
  /-- A write of the word `v` to CMD (R22, R94). -/
  | cmdW (v : Word)
  /-- LEN.W (R142). -/
  | lenW (v : Word)
  /-- LEN.R (R143). -/
  | lenR
  /-- STATUS.R (R144). -/
  | statusR
  /-- STATUS.W (R145). -/
  | statusW (v : Word)
  /-- TXDATA.W (R104, R105). -/
  | txdataW (v : Word)
  /-- RXDATA.R (R106, R107). -/
  | rxdataR
  /-- SEL.R (R146). -/
  | selR
  /-- CRC.R (R165). -/
  | crcR
  /-- An access that does nothing (R147). -/
  | ignored (a : IgnoredAccess)
  /-- READ, 3-byte address (R90, R182): `len` data bytes in. -/
  | read (off : BitVec 24) (len : Word)
  /-- READ4, 4-byte address (R90, R182). -/
  | read4 (off : Word) (len : Word)
  /-- PP, 3-byte address (R90, R187): the payload `src` out. -/
  | pp (off : BitVec 24) (src : List Byte)
  /-- PP4, 4-byte address (R90, R187). -/
  | pp4 (off : Word) (src : List Byte)
  /-- SE, 3-byte address (R90, R186). -/
  | se (off : BitVec 24)
  /-- SE4, 4-byte address (R90, R186). -/
  | se4 (off : Word)
  /-- WREN (R90, R183). -/
  | wren
  /-- WRDI (R90, R184). -/
  | wrdi
  /-- RDSR1 (R90, R185). -/
  | rdsr1
  /-- RDID (R90, R193): `n` bytes in. -/
  | rdid (n : Word)
deriving DecidableEq, Repr

/-- What a requester presents: a word for CMD ("CMD word written to offset 0x00"), an access to the register
window (R60; `size` in bytes), or an SPI-NOR frame, the bytes it clocks out under one chip-select (R91; the
data phase counts one byte for each byte in). -/
inductive Request
  | command (w : Word)
  | write (off size : Nat) (v : Word)
  | read (off size : Nat)
  | frame (mosi : List Byte)
deriving DecidableEq, Repr

end Sys2Proof
end

