-- ==== Sys2Proof/WellFormed.lean ====
section
/-! DEFINITION. Which instructions an assembler may emit: SELECT's one-hot mask (R84, R94) and the address
rule of the SPI-NOR commands (R180). -/

namespace Sys2Proof

/-- `onehot(m)` of R94: exactly one bit of the mask is set. -/
def onehot (m : Byte) : Bool := m != 0#8 && (m &&& (m - 1#8)) == 0#8

/-- The first offset that takes the 4-byte form (R180). -/
def fourByteFrom : Nat := 0x01000000

/-- A well-formed instruction: the SSMASK of a SELECT is one-hot (R84; that its bit is below NCS depends on the
parameter and is checked where the command is executed, log 14), the 4-byte SPI-NOR forms carry an offset that
needs them (R180 "4-byte form used iff offset >= 0x01000000"), and a payload fits LEN (R142). -/
def Instr.wf : Instr → Bool
  | .select _ m => onehot m
  | .read4 off _ => decide (fourByteFrom ≤ off.toNat)
  | .pp4 off src => decide (fourByteFrom ≤ off.toNat) && decide (src.length < 2 ^ 32)
  | .se4 off => decide (fourByteFrom ≤ off.toNat)
  | .pp _ src => decide (src.length < 2 ^ 32)
  | .xfer _ _ _ _ | .crcinit | .crcfeed _ => true
  | .reservedOp0 _ | .reservedOp5 _ | .reservedOp6 _ | .reservedOp7 _ | .reservedOp8 _ | .reservedOp9 _ => true
  | .reservedOpA _ | .reservedOpB _ | .reservedOpC _ | .reservedOpD _ | .reservedOpE _ | .reservedOpF _ => true
  | .cmdW _ | .lenW _ | .lenR | .statusR | .statusW _ | .txdataW _ | .rxdataR | .selR | .crcR | .ignored _ => true
  | .read _ _ | .se _ | .wren | .wrdi | .rdsr1 | .rdid _ => true

end Sys2Proof
end

