-- ==== Sys2Proof/Decode.lean ====
section
/-! DEFINITION. The decoder (R89, R91, R94) and, after it, the encoder, both written from the encodings of
30_encoding.md. The decoder is total on every request and rejects by name. -/

namespace Sys2Proof

/-- Why the decoder rejects a request. -/
inductive DecodeError
  /-- A CMD word of OP 1 to 4 with a must-be-zero bit set (R87). -/
  | illegalCommand
  /-- An access at an offset that is no multiple of 4 (R62). -/
  | misaligned
  /-- An access that is not 32 bits wide (R62). -/
  | notWord
  /-- An offset outside the window (R60, R64). -/
  | outsideWindow
  /-- A frame with no byte. -/
  | emptyFrame
  /-- A frame whose first byte is none of R90's opcodes. -/
  | unknownOpcode
  /-- A frame that ends within its address bytes (R91). -/
  | shortAddress
  /-- A frame whose data phase is not the one R90 gives its opcode. -/
  | badDataPhase
  /-- A data phase longer than LEN can hold (R6 LEN_W). -/
  | tooLong
deriving DecidableEq, Repr

/-! ### Command words (R80 to R87, R94) -/

/-- The field of `n` bits of a word from bit `lo` up (R11). -/
def field (w : Word) (lo n : Nat) : BitVec n := w.extractLsb' lo n

/-- The command a CMD word stands for (R94), less the legality of SSMASK, which depends on NCS and is checked
where the command is executed (log 14). -/
def decodeCommand (w : Word) : Except DecodeError Instr :=
  match (field w 0 4).toNat with
  | 0x1 =>
    if field w 8 24 = 0#24 then .ok (.xfer (w.getLsbD 4) (w.getLsbD 5) (w.getLsbD 6) (w.getLsbD 7))
    else .error .illegalCommand
  | 0x2 =>
    if field w 16 16 = 0#16 ∧ field w 5 3 = 0#3 then .ok (.select (field w 4 1) (field w 8 8))
    else .error .illegalCommand
  | 0x3 => if field w 4 28 = 0#28 then .ok .crcinit else .error .illegalCommand
  | 0x4 =>
    if field w 16 16 = 0#16 ∧ field w 4 4 = 0#4 then .ok (.crcfeed (field w 8 8))
    else .error .illegalCommand
  | 0x0 => .ok (.reservedOp0 (field w 4 28))
  | 0x5 => .ok (.reservedOp5 (field w 4 28))
  | 0x6 => .ok (.reservedOp6 (field w 4 28))
  | 0x7 => .ok (.reservedOp7 (field w 4 28))
  | 0x8 => .ok (.reservedOp8 (field w 4 28))
  | 0x9 => .ok (.reservedOp9 (field w 4 28))
  | 0xA => .ok (.reservedOpA (field w 4 28))
  | 0xB => .ok (.reservedOpB (field w 4 28))
  | 0xC => .ok (.reservedOpC (field w 4 28))
  | 0xD => .ok (.reservedOpD (field w 4 28))
  | 0xE => .ok (.reservedOpE (field w 4 28))
  | _ => .ok (.reservedOpF (field w 4 28))

/-! ### Register accesses (R60, R62, R89) -/

/-- A write of `v` at offset `off` of the window (R89, R147). -/
def decodeWrite (off size : Nat) (v : Word) : Except DecodeError Instr :=
  if 0x20 ≤ off then .error .outsideWindow
  else if size ≠ 4 then .error .notWord
  else
    match off with
    | 0x00 => .ok (.cmdW v)
    | 0x04 => .ok (.lenW v)
    | 0x08 => .ok (.statusW v)
    | 0x0C => .ok (.txdataW v)
    | 0x10 => .ok (.ignored (.writeRxdata v))
    | 0x14 => .ok (.ignored (.writeSel v))
    | 0x18 => .ok (.ignored (.writeCrc v))
    | 0x1C => .ok (.ignored (.writeReserved v))
    | _ => .error .misaligned

/-- A read at offset `off` of the window (R89, R147). -/
def decodeRead (off size : Nat) : Except DecodeError Instr :=
  if 0x20 ≤ off then .error .outsideWindow
  else if size ≠ 4 then .error .notWord
  else
    match off with
    | 0x00 => .ok (.ignored .readCmd)
    | 0x04 => .ok .lenR
    | 0x08 => .ok .statusR
    | 0x0C => .ok (.ignored .readTxdata)
    | 0x10 => .ok .rxdataR
    | 0x14 => .ok .selR
    | 0x18 => .ok .crcR
    | 0x1C => .ok (.ignored .readReserved)
    | _ => .error .misaligned

/-! ### SPI-NOR frames (R90, R91) -/

/-- Three address bytes, most significant first, then the data phase (R91, R180). -/
def address3 (bytes : List Byte) (k : BitVec 24 → List Byte → Except DecodeError Instr) : Except DecodeError Instr :=
  match bytes with
  | a :: b :: c :: data => k (a ++ b ++ c) data
  | _ => .error .shortAddress

/-- Four address bytes, most significant first, then the data phase (R91, R180). -/
def address4 (bytes : List Byte) (k : Word → List Byte → Except DecodeError Instr) : Except DecodeError Instr :=
  match bytes with
  | a :: b :: c :: d :: data => k (a ++ b ++ c ++ d) data
  | _ => .error .shortAddress

/-- A data phase whose length LEN can hold (R6 LEN_W). -/
def counted (data : List Byte) (i : Instr) : Except DecodeError Instr :=
  if data.length < 2 ^ 32 then .ok i else .error .tooLong

/-- A data phase of exactly `n` bytes (R90). -/
def exactly (n : Nat) (data : List Byte) (i : Instr) : Except DecodeError Instr :=
  if data.length = n then .ok i else .error .badDataPhase

/-- The SPI-NOR command a frame is (R90's table, R91): opcode, address bytes, data phase. -/
def decodeFrame (mosi : List Byte) : Except DecodeError Instr :=
  match mosi with
  | [] => .error .emptyFrame
  | op :: rest =>
    match op.toNat with
    | 0x03 => address3 rest fun off data => counted data (.read off (BitVec.ofNat 32 data.length))
    | 0x13 => address4 rest fun off data => counted data (.read4 off (BitVec.ofNat 32 data.length))
    | 0x02 => address3 rest fun off data => counted data (.pp off data)
    | 0x12 => address4 rest fun off data => counted data (.pp4 off data)
    | 0xD8 => address3 rest fun off data => exactly 0 data (.se off)
    | 0xDC => address4 rest fun off data => exactly 0 data (.se4 off)
    | 0x06 => exactly 0 rest .wren
    | 0x04 => exactly 0 rest .wrdi
    | 0x05 => exactly 1 rest .rdsr1
    | 0x9F => counted rest (.rdid (BitVec.ofNat 32 rest.length))
    | _ => .error .unknownOpcode

/-- The decoder: what instruction a request is. -/
def decode : Request → Except DecodeError Instr
  | .command w => decodeCommand w
  | .write off size v => decodeWrite off size v
  | .read off size => decodeRead off size
  | .frame mosi => decodeFrame mosi

/-! ### The encoder -/

/-- The format X word (R81, R83). -/
def xferWord (txp rxp last crcen : Bool) : Word :=
  0#24 ++ BitVec.ofBool crcen ++ BitVec.ofBool last ++ BitVec.ofBool rxp ++ BitVec.ofBool txp ++ 0x1#4

/-- The format S word (R81, R84). -/
def selectWord (ctrl : BitVec 1) (ssmask : Byte) : Word := 0#16 ++ ssmask ++ 0#3 ++ ctrl ++ 0x2#4

/-- The format I word (R81, R85). -/
def crcinitWord : Word := 0x00000003#32

/-- The format F word (R81, R86). -/
def crcfeedWord (data : Byte) : Word := 0#16 ++ data ++ 0#4 ++ 0x4#4

/-- A word with a reserved OP (R82). -/
def reservedWord (op : BitVec 4) (rest : BitVec 28) : Word := rest ++ op

/-- The three address bytes of a 24-bit offset, most significant first (R180). -/
def bytes3 (off : BitVec 24) : List Byte := [off.extractLsb' 16 8, off.extractLsb' 8 8, off.extractLsb' 0 8]

/-- The four address bytes of a 32-bit offset, most significant first (R180). -/
def bytes4 (off : Word) : List Byte :=
  [off.extractLsb' 24 8, off.extractLsb' 16 8, off.extractLsb' 8 8, off.extractLsb' 0 8]

/-- Offset and direction of an ignored access (R147). -/
def ignoredRequest : IgnoredAccess → Request
  | .readCmd => .read 0x00 4
  | .readTxdata => .read 0x0C 4
  | .readReserved => .read 0x1C 4
  | .writeRxdata v => .write 0x10 4 v
  | .writeSel v => .write 0x14 4 v
  | .writeCrc v => .write 0x18 4 v
  | .writeReserved v => .write 0x1C 4 v

/-- The request that is an instruction (R81, R89, R90, R91); `dummy` is the byte clocked out while bytes are
clocked in (DUMMY_BYTE, R182). -/
def encode (dummy : Byte) : Instr → Request
  | .xfer txp rxp last crcen => .command (xferWord txp rxp last crcen)
  | .select ctrl ssmask => .command (selectWord ctrl ssmask)
  | .crcinit => .command crcinitWord
  | .crcfeed data => .command (crcfeedWord data)
  | .reservedOp0 rest => .command (reservedWord 0x0#4 rest)
  | .reservedOp5 rest => .command (reservedWord 0x5#4 rest)
  | .reservedOp6 rest => .command (reservedWord 0x6#4 rest)
  | .reservedOp7 rest => .command (reservedWord 0x7#4 rest)
  | .reservedOp8 rest => .command (reservedWord 0x8#4 rest)
  | .reservedOp9 rest => .command (reservedWord 0x9#4 rest)
  | .reservedOpA rest => .command (reservedWord 0xA#4 rest)
  | .reservedOpB rest => .command (reservedWord 0xB#4 rest)
  | .reservedOpC rest => .command (reservedWord 0xC#4 rest)
  | .reservedOpD rest => .command (reservedWord 0xD#4 rest)
  | .reservedOpE rest => .command (reservedWord 0xE#4 rest)
  | .reservedOpF rest => .command (reservedWord 0xF#4 rest)
  | .cmdW v => .write 0x00 4 v
  | .lenW v => .write 0x04 4 v
  | .lenR => .read 0x04 4
  | .statusR => .read 0x08 4
  | .statusW v => .write 0x08 4 v
  | .txdataW v => .write 0x0C 4 v
  | .rxdataR => .read 0x10 4
  | .selR => .read 0x14 4
  | .crcR => .read 0x18 4
  | .ignored a => ignoredRequest a
  | .read off len => .frame (0x03#8 :: bytes3 off ++ List.replicate len.toNat dummy)
  | .read4 off len => .frame (0x13#8 :: bytes4 off ++ List.replicate len.toNat dummy)
  | .pp off src => .frame (0x02#8 :: bytes3 off ++ src)
  | .pp4 off src => .frame (0x12#8 :: bytes4 off ++ src)
  | .se off => .frame (0xD8#8 :: bytes3 off)
  | .se4 off => .frame (0xDC#8 :: bytes4 off)
  | .wren => .frame [0x06#8]
  | .wrdi => .frame [0x04#8]
  | .rdsr1 => .frame [0x05#8, dummy]
  | .rdid n => .frame (0x9F#8 :: List.replicate n.toNat dummy)

/-! ### The host's words -/

/-- The shortest frame of an opcode byte whose address and data bytes are zero, for the opcodes of R90. -/
def zeroFrame (op : Nat) : Option (List Byte) :=
  match op with
  | 0x03 | 0x02 | 0xD8 => some [BitVec.ofNat 8 op, 0#8, 0#8, 0#8]
  | 0x13 | 0x12 | 0xDC => some [BitVec.ofNat 8 op, 0#8, 0#8, 0#8, 0#8]
  | 0x06 | 0x04 | 0x9F => some [BitVec.ofNat 8 op]
  | 0x05 => some [0x05#8, 0#8]
  | _ => none

/-- The request a word of the opcode table stands for. A row of more than one byte is a CMD word. A row of one
byte is a window offset or an SPI-NOR opcode: the table tells the two, and the direction of an access, apart
outside the word (its "space" and "direction"), so one word can stand for several rows; log 12 says which row
answers (an offset of the window before an opcode; at each offset the access that is no IGNORED one, the write
where both are, but for STATUS the read). -/
def tableRequest (nbits w : Nat) : Request :=
  if nbits ≤ 8 then
    match w with
    | 0x00 => .write 0x00 4 0#32
    | 0x04 => .write 0x04 4 0#32
    | 0x08 => .read 0x08 4
    | 0x0C => .write 0x0C 4 0#32
    | 0x10 => .read 0x10 4
    | 0x14 => .read 0x14 4
    | 0x18 => .read 0x18 4
    | 0x1C => .read 0x1C 4
    | _ =>
      match zeroFrame w with
      | some mosi => .frame mosi
      | none => .read w 4
  else .command (BitVec.ofNat 32 w)

/-- The instruction the decoder reads from a word of the opcode table (log 12). -/
def decodeTableWord (nbits w : Nat) : Option Instr :=
  match decode (tableRequest nbits w) with
  | .ok i => some i
  | .error _ => none

end Sys2Proof
end

