-- ==== Sys2Proof/Machine/State.lean ====
section
/-! DEFINITION. The state of QSPI-XFER (10_state.md, R20) as plain data, with the inputs of its environment and the
observation of R10 beside it, the reasons a step can stop, and the state after reset (R51). -/

namespace Sys2Proof.Machine

/-- The sequencer's phase (R41). -/
inductive Phase
  | idle
  | run
  | tail
deriving DecidableEq, Repr

/-- The latched transfer descriptor (R40). -/
structure Seg where
  txp : Bool
  rxp : Bool
  last : Bool
  crcen : Bool
  len : Word
deriving DecidableEq, Repr

/-- The state of one controller core (R44 to R48); FIFOs hold the oldest byte first. -/
structure Ctl where
  txf : List Byte
  rxf : List Byte
  dummyPending : Nat
  shBusy : Bool
  shMosi : Byte
  auxCs : Bool
deriving DecidableEq, Repr

/-- The six error kinds (R221). -/
inductive ErrKind
  | cmd
  | busy
  | txw
  | rxr
  | sel
  | noinit
deriving DecidableEq, Repr

/-- What the model records beside the machine's state, so that a claim can take its absence as a premise. -/
inductive Mark
  /-- A `raise Error` (R220, R224). -/
  | error (k : ErrKind)
  /-- A byte lost at a full RX FIFO, only under RX_FULL_POLICY = overflow (R117). -/
  | rxOverflow
  /-- An access that R62 calls not legal, ignored as the hardware does; only where `cfg.badAccess` is `ignore`
  (log 7). -/
  | notLegal
deriving DecidableEq, Repr

/-- The flags of a SEG statement (R195): a subset of tx, rx, last, crc. -/
structure SegFlags where
  tx : Bool
  rx : Bool
  last : Bool
  crc : Bool
deriving DecidableEq, Repr

/-- A micro-statement of a pseudo-instruction the requester is running (43_spinor_sequences.md; log 11). -/
inductive ClientOp
  /-- `WR REG, v` (R92). -/
  | write (off : Nat) (v : Word)
  /-- `RD REG` (R92). -/
  | read (off : Nat)
  /-- `POLL REG, mask, val` (R92). -/
  | poll (off : Nat) (mask val : Word)
  /-- `SEG flags, n, txbytes` (R195). -/
  | seg (flags : SegFlags) (n : Word) (tx : List Byte)
  /-- SEG's loop, with the TX bytes not yet written (R195). -/
  | segLoop (flags : SegFlags) (tx : List Byte)
  /-- SEG's `RD RXDATA -> rxbuf[kr]` (R195). -/
  | segTake
  /-- `FLASH_WAIT_IDLE` (R188). -/
  | waitIdle
  /-- `if (x & 0x01) != 0: B wait` of R188. -/
  | waitTest
  /-- READCRC's loop at `next`, with `done` bytes folded (R190). -/
  | crcLoop (off : Word) (size done : Nat)
deriving DecidableEq, Repr

/-- The pseudo-instructions and polling statements of a requester's program (R92, R93). -/
inductive Pseudo
  | poll (off : Nat) (mask val : Word)
  | tx (b : Byte)
  | rx
  | seg (flags : SegFlags) (n : Word) (tx : List Byte)
  | flashRead (len off : Word)
  | flashWren
  | flashWrdi
  | flashRdsr1
  | flashErase (off : Word)
  | flashProgram (src : List Byte) (off : Word)
  | flashWaitIdle
  | readcrc (off size : Word)
  | custom (tx : List Byte) (rxSize : Word)
deriving DecidableEq, Repr

/-- A statement of a requester's program (R92). -/
inductive Stmt
  /-- One request: a command, a register access or an SPI-NOR frame. -/
  | request (r : Request)
  /-- A 32-bit (or other) write to an address of the requester's bus (R64). -/
  | busWrite (addr size : Nat) (v : Word)
  /-- A read of an address of the requester's bus (R64). -/
  | busRead (addr size : Nat)
  /-- A pseudo-instruction (R93). -/
  | pseudo (p : Pseudo)
  /-- `B label`: requester control flow (R92). -/
  | branch (target : Nat)
  /-- A branch taken when the value last read, masked, equals `val` (the `if …: B label` of 95_test_vectors.md). -/
  | branchIf (mask val : Word) (target : Nat)
deriving DecidableEq, Repr

/-- The block's own steps (R7): four of the sequencer, two of the shifter. -/
inductive BlockStep
  /-- Dummy-burst issue (R108). -/
  | dummyBurst
  /-- Discard (R110). -/
  | discard
  /-- End of RUN (R111). -/
  | endRun
  /-- The step that leaves TAIL (R112 to R114). -/
  | leaveTail
  /-- Shifter start (R115). -/
  | shiftStart
  /-- Shifter end (R116). -/
  | shiftEnd
deriving DecidableEq, Repr

/-- Which agent moves (R7). -/
inductive Turn
  /-- The requester. -/
  | requester
  /-- The sequencer or the shifter, by one step of its own. -/
  | block (b : BlockStep)
  /-- The platform asserts the reset input (R250). -/
  | reset
  /-- The platform drives INIT_DONE[c] (R33, R261). -/
  | setInit (c : BitVec 1) (v : Bool)
deriving DecidableEq, Repr

/-- The model's record of the segment last accepted (log 15); no rule reads it. -/
structure SegHist where
  /-- How long the bus trace was when the segment's chip-select stood asserted. -/
  base : Nat
  /-- The CRC state at acceptance. -/
  crc0 : BitVec 16
  /-- The bytes accepted by R104. -/
  fed : List Byte
  /-- The bytes taken from the RX FIFO by R106 or R110. -/
  taken : List Byte
  /-- The sizes of the dummy bursts issued (R109). -/
  bursts : List Nat
deriving DecidableEq, Repr

/-- The state. First the tuple of R20, then the inputs, then the model's own fields (INVENTORY.md, State). -/
structure State where
  /-- LEN (R23). -/
  len : Word
  /-- STATUS[13:8], the sticky error bits (R30). -/
  err : BitVec 6
  /-- `s.ctrl_sel` (R37). -/
  ctrlSel : BitVec 1
  /-- `s.ssmask` (R38). -/
  ssmask : Byte
  /-- `s.ss` (R39). -/
  ss : Bool
  /-- `s.phase` (R41). -/
  phase : Phase
  /-- `s.seg` (R40). -/
  seg : Seg
  /-- `s.tx_count` (R42). -/
  txCount : Nat
  /-- `s.rx_count` (R43). -/
  rxCount : Nat
  /-- `ctl[0]`. -/
  core0 : Ctl
  /-- `ctl[1]`. -/
  core1 : Ctl
  /-- `s.crc` (R50). -/
  crc : BitVec 16
  /-- The input INIT_DONE[0] (R33). -/
  initDone0 : Bool
  /-- The input INIT_DONE[1] (R33). -/
  initDone1 : Bool
  /-- The parameters (R6). -/
  cfg : Config.Params
  /-- The bus trace, oldest event first (R10). -/
  trace : List BusEvent
  /-- The values the requester's reads returned, oldest first (R10). -/
  reads : List Word
  /-- The faults recorded (R224). -/
  marks : List Mark
  /-- The record of the segment last accepted. -/
  hist : SegHist
  /-- The MISO bytes the slave will answer, next first (R9). -/
  miso : List Byte
  /-- The counter that free choices of agent (log 2) and free status bytes (log 17) are taken at. -/
  freeCtr : Nat
  /-- Which agents move next, next first (R7). -/
  turns : List Turn
  /-- The requester's program (R92). -/
  prog : List Stmt
  /-- The requester's own program counter: the index of its next statement. -/
  rpc : Nat
  /-- The rest of the pseudo-instruction the requester is running. -/
  client : List ClientOp
  /-- The requester's receive buffer (R195). -/
  rxbuf : List Byte
deriving DecidableEq, Repr

/-- The faults a step can stop with. -/
inductive Fault
  /-- INIT_DONE[c] fell while a segment runs on core c or while SS = 1 with core c selected (R261): nothing is
  defined after it. Raised by the platform's turn `setInit`. Safe: the spec defines nothing the model leaves out. -/
  | initLost
  /-- An access outside the 0x20 bytes of the window (R60, R64; log 8). Raised by a requester's access. Safe: such
  an access is none of the block's. -/
  | outsideWindow
deriving DecidableEq, Repr

/-- The refusals a step can stop with. -/
inductive Refusal
  /-- An instruction with no meaning yet, by its mnemonic; raised by `exec` alone. Safe. -/
  | notModelled (mnemonic : String)
  /-- `READCRC off, size` with off + size > 2^32 (R192: "A model refuses it"; log 10). Raised by the
  requester's turn. Safe: the spec gives no effect. -/
  | readcrcRange
  /-- An access at an offset that is no multiple of 4, or not of 32 bits (R62: "A Lean model refuses such an
  access rather than modelling it"; log 7). Raised by a requester's access. Safe: the hardware goes on. -/
  | badAccess
deriving DecidableEq, Repr

/-- A controller core after reset (R51). -/
def Ctl.reset : Ctl :=
  { txf := [], rxf := [], dummyPending := 0, shBusy := false, shMosi := 0#8, auxCs := false }

/-- A transfer descriptor after reset (R51). -/
def Seg.reset : Seg := { txp := false, rxp := false, last := false, crcen := false, len := 0#32 }

/-- The record of a segment before any is accepted. -/
def SegHist.reset : SegHist := { base := 0, crc0 := Config.crcInit, fed := [], taken := [], bursts := [] }

/-- The machine right after reset (R51), for the parameters and the INIT_DONE inputs of a platform, with an
environment that does nothing. -/
def State.resetWith (p : Config.Params) (init0 init1 : Bool) : State :=
  { len := 0#32, err := 0#6, ctrlSel := 0#1, ssmask := 0x01#8, ss := false, phase := .idle, seg := Seg.reset,
    txCount := 0, rxCount := 0, core0 := Ctl.reset, core1 := Ctl.reset, crc := Config.crcInit,
    initDone0 := init0, initDone1 := init1, cfg := p, trace := [], reads := [], marks := [],
    hist := SegHist.reset, miso := [], freeCtr := 0, turns := [], prog := [], rpc := 0, client := [], rxbuf := [] }

/-- The machine right after reset (R51), for one representative of R6's OPEN values (log 3). -/
def State.reset : State := State.resetWith Config.params Config.initDoneAtReset Config.initDoneAtReset

end Sys2Proof.Machine
end

