-- ==== Sys2Proof/Machine/Operands.lean ====
section
/-! DEFINITION. Operand assembly: the fields of a command and a data word (R88, R104), the legality and the index of
a chip-select mask (R38, R84, R94), and the SPI-NOR headers (R180, R181). -/

namespace Sys2Proof.Machine

/-- `idx(ssmask)` (R38): the position of the mask's set bit (the lowest one; a mask of the machine has one). -/
def idx (m : Byte) : Nat :=
  if m.getLsbD 0 then 0
  else if m.getLsbD 1 then 1
  else if m.getLsbD 2 then 2
  else if m.getLsbD 3 then 3
  else if m.getLsbD 4 then 4
  else if m.getLsbD 5 then 5
  else if m.getLsbD 6 then 6
  else if m.getLsbD 7 then 7
  else 8

/-- A legal SSMASK (R84, R94): one-hot, its bit below NCS. -/
def ssmaskLegal (ncs : Nat) (m : Byte) : Bool := onehot m && decide (idx m < ncs)

/-- The byte of a TXDATA write or of a value read from RXDATA: bits [7:0] (R31, R32, R61). -/
def lowByte (v : Word) : Byte := v.setWidth 8

/-- `abytes(off)` (R180): "(offset >> 24) ? 4 : 3". -/
def abytes (off : Word) : Nat := if off.extractLsb' 24 8 ≠ 0#8 then 4 else 3

/-- `addr(off)` (R180): big-endian in `abytes(off)` bytes. -/
def addr (off : Word) : List Byte := if abytes off = 4 then bytes4 off else bytes3 (off.setWidth 24)

/-- `hdr(op3, op4, off)` (R181). -/
def hdr (op3 op4 : Byte) (off : Word) : List Byte := (if abytes off = 4 then op4 else op3) :: addr off

/-- FLASH_READ's command (R182): READ or READ4 by the address rule (R180). -/
def flashReadInstr (len off : Word) : Instr :=
  if abytes off = 4 then .read4 off len else .read (off.setWidth 24) len

/-- FLASH_PROGRAM's command (R187): PP or PP4 by the address rule (R180). -/
def flashProgramInstr (src : List Byte) (off : Word) : Instr :=
  if abytes off = 4 then .pp4 off src else .pp (off.setWidth 24) src

/-- FLASH_ERASE's command (R186): SE or SE4 by the address rule (R180). -/
def flashEraseInstr (off : Word) : Instr :=
  if abytes off = 4 then .se4 off else .se (off.setWidth 24)

end Sys2Proof.Machine
end

