-- ==== Sys2Proof/Machine/Flags.lean ====
section
/-! DEFINITION. The views of the state that a requester or the sequencer reads: the selected core, the controller
conditions (R49), the bits of STATUS (R24 to R30), SEL (R34), CRC (R35) and the chip-select pins (R48). -/

namespace Sys2Proof.Machine

/-- `ctl[c]`. -/
def State.ctl (s : State) (c : BitVec 1) : Ctl := if c = 0#1 then s.core0 else s.core1

/-- `ctl[c] <- k`. -/
def State.setCtl (s : State) (c : BitVec 1) (k : Ctl) : State :=
  { s with core0 := if c = 0#1 then k else s.core0, core1 := if c = 0#1 then s.core1 else k }

/-- `ctl[sel]`, the selected core (R37). -/
def State.sel (s : State) : Ctl := s.ctl s.ctrlSel

/-- `ctl[sel] <- k`. -/
def State.setSel (s : State) (k : Ctl) : State := s.setCtl s.ctrlSel k

/-- `INIT_DONE[c]` (R33). -/
def State.initDone (s : State) (c : BitVec 1) : Bool := if c = 0#1 then s.initDone0 else s.initDone1

/-- `i`, the selected chip-select line: `idx(s.ssmask)` (R38). -/
def State.line (s : State) : Nat := idx s.ssmask

/-- `TXE(c)`: "TX_FIFO-empty" (R49). -/
def Ctl.txe (k : Ctl) : Bool := k.txf.isEmpty && decide (k.dummyPending = 0)

/-- `RXNE(c)`: "RX FIFO is non-empty" (R49). -/
def Ctl.rxne (k : Ctl) : Bool := !k.rxf.isEmpty

/-- `XBUSY(c)`: "transfer in progress" (R49). -/
def Ctl.xbusy (k : Ctl) : Bool := k.shBusy || !k.txe

/-- `full` of a FIFO of the given capacity (R12, R44). -/
def full (depth : Nat) (q : List Byte) : Bool := decide (depth ≤ q.length)

/-- STATUS.BUSY (R25). -/
def State.busy (s : State) : Bool := decide (s.phase ≠ .idle)

/-- STATUS.TXRDY (R27). -/
def State.txrdy (s : State) : Bool :=
  decide (s.phase = .run) && s.seg.txp && decide (s.txCount < s.seg.len.toNat) && !full s.cfg.txd s.sel.txf

/-- STATUS.RXAVL (R28). -/
def State.rxavl (s : State) : Bool := decide (s.phase = .run) && s.seg.rxp && !s.sel.rxf.isEmpty

/-- STATUS.INIT: INIT_DONE of the selected core (R24, R33). -/
def State.initBit (s : State) : Bool := s.initDone s.ctrlSel

/-- The STATUS word (R24, R144): bits 31:14 and 7:6 read 0. -/
def State.statusWord (s : State) : Word :=
  0#18 ++ s.err ++ 0#2 ++ BitVec.ofBool s.initBit ++ s.ctrlSel ++ BitVec.ofBool s.rxavl ++ BitVec.ofBool s.txrdy ++
    BitVec.ofBool s.ss ++ BitVec.ofBool s.busy

/-- The SEL word (R34, R146). -/
def State.selWord (s : State) : Word := 0#16 ++ s.ssmask ++ 0#7 ++ s.ctrlSel

/-- The CRC word (R35, R165). -/
def State.crcWord (s : State) : Word := s.crc.zeroExtend 32

/-- The chip-select pin `cs_n[c][i]`, active low (R48). -/
def State.csN (s : State) (c : BitVec 1) (i : Nat) : Bool :=
  !((s.ctl c).auxCs && decide (c = s.ctrlSel) && s.ssmask.getLsbD i)

/-- The value the requester's last read returned (0 before any read): the requester's own `t`, `x`, `st` (R92). -/
def State.lastRead (s : State) : Word := s.reads.getLastD 0#32

end Sys2Proof.Machine
end

