-- ==== Sys2Proof/Machine/Ops.lean ====
section
/-! DEFINITION. The operations instructions share: raising an error and clearing it (R220, R227; this block's form
of taking an exception and returning from one), returning a read, recording a bus event, the command port (R94,
R222), the segment's acceptance (R101 to R103), the byte ports (R104 to R107) and the RX tap (R164), an access
that is not legal (R62), and the platform's reset (R250) and INIT_DONE (R261). -/

namespace Sys2Proof.Machine

/-- The bit of an error kind, counted from STATUS bit 8 (R221). -/
def ErrKind.bit : ErrKind → BitVec 6
  | .cmd => 0b000001#6
  | .busy => 0b000010#6
  | .txw => 0b000100#6
  | .rxr => 0b001000#6
  | .sel => 0b010000#6
  | .noinit => 0b100000#6

/-- `raise Error(KIND)` (R220): the sticky bit is set and nothing else of the block changes; the model records the
fault (R224, log 6). -/
def raiseError (k : ErrKind) (s : State) : State :=
  { s with err := s.err ||| k.bit, marks := s.marks ++ [.error k] }

/-- The "return" from an error (R145, R227): the error bits written with 1 are cleared. -/
def clearErrors (v : Word) (s : State) : State := { s with err := s.err &&& ~~~ v.extractLsb' 8 6 }

/-- A read access returns `v` to the requester (R10). -/
def returnRead (v : Word) (s : State) : State := { s with reads := s.reads ++ [v] }

/-- `emit E` (R12). -/
def emit (e : BusEvent) (s : State) : State := { s with trace := s.trace ++ [e] }

/-! ### The command port -/

/-- A command reaches CMD (R94, R222): ERR_BUSY first, then ERR_CMD where the word is ILLEGAL, else its body. -/
def issueCommand (legal : Bool) (body : State → State) (s : State) : State :=
  if s.phase ≠ .idle then raiseError .busy s else if legal then body s else raiseError .cmd s

/-- "assert CS" (R103). -/
def assertCs (s : State) : State :=
  if s.ss then s
  else emit (.csLow s.ctrlSel s.line) { s.setSel { s.sel with auxCs := true } with ss := true }

/-- "accept" (R102); the record of the segment begins. -/
def acceptSegment (txp rxp last crcen : Bool) (s : State) : State :=
  let t := assertCs s
  { t with
    seg := { txp := txp, rxp := rxp, last := last, crcen := crcen, len := s.len }
    txCount := 0
    rxCount := 0
    phase := .run
    hist := { base := t.trace.length, crc0 := s.crc, fed := [], taken := [], bursts := [] } }

/-- XFER in IDLE (R101): ERR_NOINIT where INIT_DONE of the selected core is 0, else the segment is accepted. -/
def xferBody (txp rxp last crcen : Bool) (s : State) : State :=
  if s.initDone s.ctrlSel then acceptSegment txp rxp last crcen s else raiseError .noinit s

/-- SELECT in IDLE (R140): ERR_SEL where SS = 1. -/
def selectBody (ctrl : BitVec 1) (ssmask : Byte) (s : State) : State :=
  if s.ss then raiseError .sel s else { s with ctrlSel := ctrl, ssmask := ssmask }

/-- CRCINIT in IDLE (R162). -/
def crcinitBody (s : State) : State := { s with crc := Config.crcInit }

/-- CRCFEED in IDLE (R163). -/
def crcfeedBody (data : Byte) (s : State) : State := { s with crc := crc16Upd s.crc data }

/-- `MmioWrite(0x00, w)` (R94). -/
def commandWrite (w : Word) (s : State) : State :=
  match decodeCommand w with
  | .ok (.xfer txp rxp last crcen) => issueCommand true (xferBody txp rxp last crcen) s
  | .ok (.select ctrl ssmask) => issueCommand (ssmaskLegal s.cfg.ncs ssmask) (selectBody ctrl ssmask) s
  | .ok .crcinit => issueCommand true crcinitBody s
  | .ok (.crcfeed data) => issueCommand true (crcfeedBody data) s
  | _ => issueCommand false id s

/-! ### The registers and the byte ports -/

/-- `MmioWrite(0x04, v)` (R142). -/
def lenWrite (v : Word) (s : State) : State := { s with len := v }

/-- The selected core with a byte pushed to its TX FIFO. -/
def Ctl.pushTx (k : Ctl) (b : Byte) : Ctl := { k with txf := k.txf ++ [b] }

/-- `MmioWrite(0x0C, v)`: accepted (R104) or refused with ERR_TXW (R105). -/
def txdataWrite (v : Word) (s : State) : State :=
  if s.txrdy then
    { s.setSel (s.sel.pushTx (lowByte v)) with
      txCount := s.txCount + 1
      hist := { s.hist with fed := s.hist.fed ++ [lowByte v] } }
  else raiseError .txw s

/-- A byte is taken from the RX FIFO, of which `rest` remains: it is counted, and folded into the CRC where the
segment's CRCEN = 1 (R106, R110, R164). -/
def takeByte (b : Byte) (rest : List Byte) (s : State) : State :=
  { s.setSel { s.sel with rxf := rest } with
    rxCount := s.rxCount + 1
    crc := if s.seg.crcen then crc16Upd s.crc b else s.crc
    hist := { s.hist with taken := s.hist.taken ++ [b] } }

/-- `MmioRead(0x10)`: accepted (R106), or refused with ERR_RXR and 0 returned (R107). -/
def rxdataRead (s : State) : State :=
  if s.rxavl then
    match s.sel.rxf with
    | b :: rest => returnRead (b.zeroExtend 32) (takeByte b rest s)
    | [] => returnRead 0#32 (raiseError .rxr s)
  else returnRead 0#32 (raiseError .rxr s)

/-- An access that R62 calls not legal, as the hardware treats it: a write is ignored and a read returns 0; the model
records that it happened (log 7). -/
def ignoreAccess (isRead : Bool) (s : State) : State :=
  let t := { s with marks := s.marks ++ [.notLegal] }
  if isRead then returnRead 0#32 t else t

/-- An access that R62 calls not legal: refused, or ignored as the hardware does (log 7). -/
def notLegalAccess (isRead : Bool) (s : State) : Host.Outcome State Fault Refusal :=
  match s.cfg.badAccess with
  | .refuse => .refused .badAccess
  | .ignore => .next (ignoreAccess isRead s)

/-- What the requester itself does after an access that went on. -/
def andThen (o : Host.Outcome State Fault Refusal) (f : State → State) : Host.Outcome State Fault Refusal :=
  match o with
  | .next t => .next (f t)
  | .fault r => .fault r
  | .refused r => .refused r

/-! ### The platform -/

/-- The reset input (R250, R251): a low chip-select goes high first, then every element of R51 takes its reset
value; INIT_DONE, the parameters, the observation and the requester are not the block's to reset (log 19). -/
def platformReset (s : State) : State :=
  let t := if s.ss then emit (.csHigh s.ctrlSel s.line) s else s
  { t with
    len := 0#32, err := 0#6, ctrlSel := 0#1, ssmask := 0x01#8, ss := false, phase := .idle, seg := Seg.reset
    txCount := 0, rxCount := 0, core0 := Ctl.reset, core1 := Ctl.reset, crc := Config.crcInit
    hist := SegHist.reset }

/-- INIT_DONE[c] may not fall (R261): a segment runs on core c, or SS = 1 with core c selected. -/
def initHeld (c : BitVec 1) (s : State) : Bool := decide (c = s.ctrlSel) && (s.busy || s.ss)

/-- The platform drives INIT_DONE[c] to `v` (R33); a fall the platform may not make is InitLost (R261). -/
def platformSetInit (c : BitVec 1) (v : Bool) (s : State) : Host.Outcome State Fault Refusal :=
  if initHeld c s && s.initDone c && !v then .fault .initLost
  else
    .next { s with
      initDone0 := if c = 0#1 then v else s.initDone0
      initDone1 := if c = 0#1 then s.initDone1 else v }

end Sys2Proof.Machine
end

