-- ==== Sys2Proof/Machine/Control.lean ====
section
/-! DEFINITION. The control family (41_control.md): SELECT, the CMD port, the LEN, STATUS and SEL accesses, the
accesses that do nothing, and the reserved OPs (R82, R87). -/

namespace Sys2Proof.Machine

/-- SELECT (R140); an SSMASK that is not legal makes the word ILLEGAL (R94). -/
def execSelect (ctrl : BitVec 1) (ssmask : Byte) (s : State) : Host.Outcome State Fault Refusal :=
  .next (issueCommand (ssmaskLegal s.cfg.ncs ssmask) (selectBody ctrl ssmask) s)

/-- CMD.W: the word is decoded and the command issued (R22, R94). -/
def execCmdW (v : Word) (s : State) : Host.Outcome State Fault Refusal := .next (commandWrite v s)

/-- LEN.W (R142). -/
def execLenW (v : Word) (s : State) : Host.Outcome State Fault Refusal := .next (lenWrite v s)

/-- LEN.R (R143). -/
def execLenR (s : State) : Host.Outcome State Fault Refusal := .next (returnRead s.len s)

/-- STATUS.R (R144). -/
def execStatusR (s : State) : Host.Outcome State Fault Refusal := .next (returnRead s.statusWord s)

/-- STATUS.W (R145). -/
def execStatusW (v : Word) (s : State) : Host.Outcome State Fault Refusal := .next (clearErrors v s)

/-- SEL.R (R146). -/
def execSelR (s : State) : Host.Outcome State Fault Refusal := .next (returnRead s.selWord s)

/-- IGNORED (R147): a read returns 0, a write does nothing. -/
def execIgnored (a : IgnoredAccess) (s : State) : Host.Outcome State Fault Refusal :=
  match a with
  | .readCmd | .readTxdata | .readReserved => .next (returnRead 0#32 s)
  | .writeRxdata _ | .writeSel _ | .writeCrc _ | .writeReserved _ => .next s

/-- A reserved OP is an illegal command, whatever its other bits (R82, R87). -/
def reservedOp (_rest : BitVec 28) (s : State) : Host.Outcome State Fault Refusal := .next (issueCommand false id s)

/-- OP 0x0 (R87). -/
def execReservedOp0 (rest : BitVec 28) (s : State) : Host.Outcome State Fault Refusal := reservedOp rest s

/-- OP 0x5 (R87). -/
def execReservedOp5 (rest : BitVec 28) (s : State) : Host.Outcome State Fault Refusal := reservedOp rest s

/-- OP 0x6 (R87). -/
def execReservedOp6 (rest : BitVec 28) (s : State) : Host.Outcome State Fault Refusal := reservedOp rest s

/-- OP 0x7 (R87). -/
def execReservedOp7 (rest : BitVec 28) (s : State) : Host.Outcome State Fault Refusal := reservedOp rest s

/-- OP 0x8 (R87). -/
def execReservedOp8 (rest : BitVec 28) (s : State) : Host.Outcome State Fault Refusal := reservedOp rest s

/-- OP 0x9 (R87). -/
def execReservedOp9 (rest : BitVec 28) (s : State) : Host.Outcome State Fault Refusal := reservedOp rest s

/-- OP 0xA (R87). -/
def execReservedOpA (rest : BitVec 28) (s : State) : Host.Outcome State Fault Refusal := reservedOp rest s

/-- OP 0xB (R87). -/
def execReservedOpB (rest : BitVec 28) (s : State) : Host.Outcome State Fault Refusal := reservedOp rest s

/-- OP 0xC (R87). -/
def execReservedOpC (rest : BitVec 28) (s : State) : Host.Outcome State Fault Refusal := reservedOp rest s

/-- OP 0xD (R87). -/
def execReservedOpD (rest : BitVec 28) (s : State) : Host.Outcome State Fault Refusal := reservedOp rest s

/-- OP 0xE (R87). -/
def execReservedOpE (rest : BitVec 28) (s : State) : Host.Outcome State Fault Refusal := reservedOp rest s

/-- OP 0xF (R87). -/
def execReservedOpF (rest : BitVec 28) (s : State) : Host.Outcome State Fault Refusal := reservedOp rest s

end Sys2Proof.Machine
end

