-- ==== Sys2Proof/Machine/CrcUnit.lean ====
section
/-! DEFINITION. The CRC family (42_crc.md section 2): CRCINIT, CRCFEED and the CRC register. -/

namespace Sys2Proof.Machine

/-- CRCINIT (R162). -/
def execCrcinit (s : State) : Host.Outcome State Fault Refusal := .next (issueCommand true crcinitBody s)

/-- CRCFEED (R163). -/
def execCrcfeed (data : Byte) (s : State) : Host.Outcome State Fault Refusal :=
  .next (issueCommand true (crcfeedBody data) s)

/-- CRC.R (R165, R166). -/
def execCrcR (s : State) : Host.Outcome State Fault Refusal := .next (returnRead s.crcWord s)

end Sys2Proof.Machine
end

