-- ==== Sys2Proof/Machine/SpiNor.lean ====
section
/-! DEFINITION. The SPI-NOR commands (43_spinor_sequences.md): each is the requester's fixed sequence of segments,
and its meaning puts that sequence before what the requester still has to do. The sequence then runs one access a
step (Client.lean). -/

namespace Sys2Proof.Machine

/-- The requester turns to a sequence of micro-statements; what it was doing comes after (R93). -/
def startSequence (ops : List ClientOp) (s : State) : State := { s with client := ops ++ s.client }

/-- `SEG tx, |bytes|, bytes`, with LAST or not. -/
def segTx (last : Bool) (bytes : List Byte) : ClientOp :=
  .seg { tx := true, rx := false, last := last, crc := false } (BitVec.ofNat 32 bytes.length) bytes

/-- `SEG rx,last, n`. -/
def segRxLast (n : Word) : ClientOp := .seg { tx := false, rx := true, last := true, crc := false } n []

/-- `SEG crc,last, n` (R190). -/
def segCrcLast (n : Word) : ClientOp := .seg { tx := false, rx := false, last := true, crc := true } n []

/-- FLASH_READ with the header `h` (R182). -/
def readSequence (h : List Byte) (len : Word) : List ClientOp := [segTx false h, segRxLast len]

/-- FLASH_PROGRAM with the header `h` (R187). -/
def programSequence (h src : List Byte) : List ClientOp := [segTx false h, segTx true src, .waitIdle]

/-- FLASH_ERASE with the header `h` (R186). -/
def eraseSequence (h : List Byte) : List ClientOp := [segTx true h, .waitIdle]

/-- FLASH_RDSR1 (R185). -/
def rdsr1Sequence : List ClientOp := [segTx false [0x05#8], segRxLast 1#32]

/-- CUSTOM (R193): LAST on the TX segment where no byte is to come in; nothing is sent where both parts are
empty. -/
def customSequence (tx : List Byte) (rxSize : Word) : List ClientOp :=
  (if tx.isEmpty then [] else [segTx (decide (rxSize = 0#32)) tx]) ++ (if rxSize = 0#32 then [] else [segRxLast rxSize])

/-- READCRC (R190). -/
def readcrcSequence (off size : Word) : List ClientOp := [.write 0x00 crcinitWord, .crcLoop off size.toNat 0]

/-- The range R192 gives READCRC: off + size at most 2^32. -/
def readcrcInRange (off size : Word) : Bool := decide (off.toNat + size.toNat ≤ 2 ^ 32)

/-- READ (R182). -/
def execRead (off : BitVec 24) (len : Word) (s : State) : Host.Outcome State Fault Refusal :=
  .next (startSequence (readSequence (0x03#8 :: bytes3 off) len) s)

/-- READ4 (R182). -/
def execRead4 (off len : Word) (s : State) : Host.Outcome State Fault Refusal :=
  .next (startSequence (readSequence (0x13#8 :: bytes4 off) len) s)

/-- PP (R187). -/
def execPp (off : BitVec 24) (src : List Byte) (s : State) : Host.Outcome State Fault Refusal :=
  .next (startSequence (programSequence (0x02#8 :: bytes3 off) src) s)

/-- PP4 (R187). -/
def execPp4 (off : Word) (src : List Byte) (s : State) : Host.Outcome State Fault Refusal :=
  .next (startSequence (programSequence (0x12#8 :: bytes4 off) src) s)

/-- SE (R186). -/
def execSe (off : BitVec 24) (s : State) : Host.Outcome State Fault Refusal :=
  .next (startSequence (eraseSequence (0xD8#8 :: bytes3 off)) s)

/-- SE4 (R186). -/
def execSe4 (off : Word) (s : State) : Host.Outcome State Fault Refusal :=
  .next (startSequence (eraseSequence (0xDC#8 :: bytes4 off)) s)

/-- WREN (R183). -/
def execWren (s : State) : Host.Outcome State Fault Refusal := .next (startSequence [segTx true [0x06#8]] s)

/-- WRDI (R184). -/
def execWrdi (s : State) : Host.Outcome State Fault Refusal := .next (startSequence [segTx true [0x04#8]] s)

/-- RDSR1 (R185). -/
def execRdsr1 (s : State) : Host.Outcome State Fault Refusal := .next (startSequence rdsr1Sequence s)

/-- RDID (R193: CUSTOM [0x9F], n). -/
def execRdid (n : Word) (s : State) : Host.Outcome State Fault Refusal :=
  .next (startSequence (customSequence [0x9F#8] n) s)

end Sys2Proof.Machine
end

