-- ==== Sys2Proof/Machine/Xfer.lean ====
section
/-! DEFINITION. The XFER family: the command that opens a segment and its two byte ports (40_xfer.md sections 1
and 2). -/

namespace Sys2Proof.Machine

/-- XFER (R100 to R103). -/
def execXfer (txp rxp last crcen : Bool) (s : State) : Host.Outcome State Fault Refusal :=
  .next (issueCommand true (xferBody txp rxp last crcen) s)

/-- TXDATA.W (R104, R105). -/
def execTxdataW (v : Word) (s : State) : Host.Outcome State Fault Refusal := .next (txdataWrite v s)

/-- RXDATA.R (R106, R107). -/
def execRxdataR (s : State) : Host.Outcome State Fault Refusal := .next (rxdataRead s)

end Sys2Proof.Machine
end

