-- ==== Sys2Proof/Machine/Dispatch.lean ====
section
/-! DEFINITION. The meaning of every instruction, one arm per constructor of Instr. -/

namespace Sys2Proof.Machine

def exec (i : Instr) (s : State) : Host.Outcome State Fault Refusal :=
  match i with
  | .xfer txp rxp last crcen => Sys2Proof.Machine.execXfer txp rxp last crcen s
  | .select ctrl ssmask => Sys2Proof.Machine.execSelect ctrl ssmask s
  | .crcinit => Sys2Proof.Machine.execCrcinit s
  | .crcfeed data => Sys2Proof.Machine.execCrcfeed data s
  | .reservedOp0 rest => Sys2Proof.Machine.execReservedOp0 rest s
  | .reservedOp5 rest => Sys2Proof.Machine.execReservedOp5 rest s
  | .reservedOp6 rest => Sys2Proof.Machine.execReservedOp6 rest s
  | .reservedOp7 rest => Sys2Proof.Machine.execReservedOp7 rest s
  | .reservedOp8 rest => Sys2Proof.Machine.execReservedOp8 rest s
  | .reservedOp9 rest => Sys2Proof.Machine.execReservedOp9 rest s
  | .reservedOpA rest => Sys2Proof.Machine.execReservedOpA rest s
  | .reservedOpB rest => Sys2Proof.Machine.execReservedOpB rest s
  | .reservedOpC rest => Sys2Proof.Machine.execReservedOpC rest s
  | .reservedOpD rest => Sys2Proof.Machine.execReservedOpD rest s
  | .reservedOpE rest => Sys2Proof.Machine.execReservedOpE rest s
  | .reservedOpF rest => Sys2Proof.Machine.execReservedOpF rest s
  | .cmdW v => Sys2Proof.Machine.execCmdW v s
  | .lenW v => Sys2Proof.Machine.execLenW v s
  | .lenR => Sys2Proof.Machine.execLenR s
  | .statusR => Sys2Proof.Machine.execStatusR s
  | .statusW v => Sys2Proof.Machine.execStatusW v s
  | .txdataW v => Sys2Proof.Machine.execTxdataW v s
  | .rxdataR => Sys2Proof.Machine.execRxdataR s
  | .selR => Sys2Proof.Machine.execSelR s
  | .crcR => Sys2Proof.Machine.execCrcR s
  | .ignored a => Sys2Proof.Machine.execIgnored a s
  | .read off len => Sys2Proof.Machine.execRead off len s
  | .read4 off len => Sys2Proof.Machine.execRead4 off len s
  | .pp off src => Sys2Proof.Machine.execPp off src s
  | .pp4 off src => Sys2Proof.Machine.execPp4 off src s
  | .se off => Sys2Proof.Machine.execSe off s
  | .se4 off => Sys2Proof.Machine.execSe4 off s
  | .wren => Sys2Proof.Machine.execWren s
  | .wrdi => Sys2Proof.Machine.execWrdi s
  | .rdsr1 => Sys2Proof.Machine.execRdsr1 s
  | .rdid n => Sys2Proof.Machine.execRdid n s

end Sys2Proof.Machine
end

