-- ==== Sys2Proof/Machine/Request.lean ====
section
/-! DEFINITION. One request of the requester: decoded and executed, or rejected (R60, R62, R64, R87). -/

namespace Sys2Proof.Machine

/-- A request the decoder rejects. A CMD word that is no command raises ERR_CMD (R87); an access that is not
legal is refused or ignored (R62, log 7); one outside the window faults (log 8); a frame of no named command is sent
byte for byte, as CUSTOM does (R193, log 13). -/
def runUndecoded (r : Request) (e : DecodeError) (s : State) : Host.Outcome State Fault Refusal :=
  match r with
  | .command w => .next (commandWrite w s)
  | .write _ _ _ => if e = .outsideWindow then .fault .outsideWindow else notLegalAccess false s
  | .read _ _ => if e = .outsideWindow then .fault .outsideWindow else notLegalAccess true s
  | .frame mosi => .next (startSequence (customSequence mosi 0#32) s)

/-- A request is decoded and executed. -/
def runRequest (r : Request) (s : State) : Host.Outcome State Fault Refusal :=
  match decode r with
  | .ok i => exec i s
  | .error e => runUndecoded r e s

end Sys2Proof.Machine
end

