-- ==== Sys2Proof/Machine/Client.lean ====
section
/-! DEFINITION. One step of a pseudo-instruction the requester is running (R92, R190, R195; log 11): at most one
register access, and the requester's own control flow. -/

namespace Sys2Proof.Machine

/-- The XFER word a SEG statement writes (R83, R92). -/
def SegFlags.word (f : SegFlags) : Word := xferWord f.tx f.rx f.last f.crc

/-- Micro-statements put before what the requester still has to do. -/
def thenDo (ops : List ClientOp) (s : State) : State := { s with client := ops ++ s.client }

/-- One pass of SEG's loop (R195) after STATUS was read as `st`: done where BUSY = 0, else the byte accesses the
flags allow, then the loop again. -/
def segPass (f : SegFlags) (tx : List Byte) (st : Word) : List ClientOp :=
  if st.getLsbD 0 then
    let loopTake := if f.rx && st.getLsbD 3 then [ClientOp.segTake] else []
    if f.tx && st.getLsbD 2 then
      match tx with
      | b :: rest => .write 0x0C (b.zeroExtend 32) :: loopTake ++ [.segLoop f rest]
      | [] => loopTake ++ [.segLoop f []]
    else loopTake ++ [.segLoop f tx]
  else []

/-- READCRC at `next` (R190): `RD CRC` when all is done, else one chunk: a READ header, a CRC segment, and on. -/
def crcPass (off : Word) (size done : Nat) : List ClientOp :=
  if size ≤ done then [.read 0x18]
  else
    let n := min Config.verifyChunk (size - done)
    [segTx false (hdr 0x03#8 0x13#8 (BitVec.ofNat 32 (off.toNat + done))), segCrcLast (BitVec.ofNat 32 n),
      .crcLoop off size (done + n)]

/-- R188's test of the status byte: bit 0 set goes round again. -/
def waitPass (x : Byte) : List ClientOp := if x.getLsbD 0 then [.waitIdle] else []

/-- The status byte just read. Where none came in (RDSR1's segments refused with ERR_NOINIT, or ended by a platform
reset) the spec says nothing of it: a free value, and the choice of one is used up (the model's choice, log 17). -/
def waitTurn (s : State) : State :=
  match s.rxbuf with
  | x :: _ => thenDo (waitPass x) s
  | [] => thenDo (waitPass (Config.freeStatus s.freeCtr)) { s with freeCtr := s.freeCtr + 1 }

/-- One micro-statement, already taken from the queue. Every access it makes is a request like any other, so that an
offset outside the window faults (log 8) and one that is not legal is refused or ignored (log 7), in a POLL too. -/
def clientStep (op : ClientOp) (s : State) : Host.Outcome State Fault Refusal :=
  match op with
  | .write off v => runRequest (.write off 4 v) s
  | .read off => runRequest (.read off 4) s
  | .poll off mask val =>
    andThen (runRequest (.read off 4) s) fun t =>
      if t.lastRead &&& mask = val then t else thenDo [.poll off mask val] t
  | .seg f n tx =>
    .next (thenDo [.poll 0x08 0x1#32 0x0#32, .write 0x04 n, .write 0x00 f.word, .segLoop f (tx.take n.toNat)]
      { s with rxbuf := if f.rx then [] else s.rxbuf })
  | .segLoop f tx => andThen (runRequest (.read 0x08 4) s) fun t => thenDo (segPass f tx t.lastRead) t
  | .segTake => andThen (runRequest (.read 0x10 4) s) fun t => { t with rxbuf := t.rxbuf ++ [lowByte t.lastRead] }
  | .waitIdle => .next (thenDo (rdsr1Sequence ++ [.waitTest]) s)
  | .waitTest => .next (waitTurn s)
  | .crcLoop off size done => .next (thenDo (crcPass off size done) s)

end Sys2Proof.Machine
end

