-- ==== Sys2Proof/Machine/Engine.lean ====
section
/-! DEFINITION. The block's own steps: the sequencer's four (R108 to R114) and the shifter's two (R115 to R117),
each with its enabling condition and its effect. -/

namespace Sys2Proof.Machine

/-- Room for the byte a start will receive (R115, R117): asked for under `stall`, dropped under `overflow`. -/
def State.rxRoom (s : State) : Bool :=
  decide (s.cfg.rxFull = .overflow) || decide (s.sel.rxf.length < s.cfg.rxd)

/-- The enabling conditions of R108, R110, R111, R112, R115 and R116. -/
def enabled (b : BlockStep) (s : State) : Bool :=
  match b with
  | .dummyBurst =>
    decide (s.phase = .run) && !s.seg.txp && decide (s.txCount < s.seg.len.toNat) && s.sel.txe
  | .discard => decide (s.phase = .run) && !s.seg.rxp && s.sel.rxne
  | .endRun =>
    decide (s.phase = .run) && decide (s.txCount = s.seg.len.toNat) && decide (s.rxCount = s.seg.len.toNat)
  | .leaveTail => decide (s.phase = .tail) && !s.sel.xbusy
  | .shiftStart => !s.sel.shBusy && (!s.sel.txf.isEmpty || decide (0 < s.sel.dummyPending)) && s.rxRoom
  | .shiftEnd => s.sel.shBusy

/-- The size of the next dummy burst (R108): min(len − tx_count, MAX_DUMMY_BURST). -/
def burstSize (s : State) : Nat := min (s.seg.len.toNat - s.txCount) Config.maxDummyBurst

/-- Dummy-burst issue (R108). -/
def issueBurst (s : State) : State :=
  { s.setSel { s.sel with dummyPending := burstSize s } with
    txCount := s.txCount + burstSize s
    hist := { s.hist with bursts := s.hist.bursts ++ [burstSize s] } }

/-- Discard (R110). -/
def discardByte (s : State) : State :=
  match s.sel.rxf with
  | b :: rest => takeByte b rest s
  | [] => s

/-- End of a segment with LAST = 1 (R113). -/
def releaseCs (s : State) : State :=
  emit (.csHigh s.ctrlSel s.line)
    { s.setSel { s.sel with auxCs := false } with ss := false, phase := .idle }

/-- The step that leaves TAIL (R113, R114). -/
def leaveTail (s : State) : State := if s.seg.last then releaseCs s else { s with phase := .idle }

/-- Shifter start (R115). -/
def startByte (s : State) : State :=
  match s.sel.txf with
  | b :: rest => s.setSel { s.sel with txf := rest, shMosi := b, shBusy := true }
  | [] =>
    s.setSel
      { s.sel with dummyPending := s.sel.dummyPending - 1, shMosi := s.cfg.dummyByte, shBusy := true }

/-- `draw_miso(c, i, mosi)` (R9, R12): the slave's next answer, free where the state names none (log 5). -/
def drawMiso (s : State) : Byte := s.miso.headD (Config.freeMiso s.trace s.ctrlSel s.line s.sel.shMosi)

/-- The RX FIFO after a byte came in (R116): under `overflow` a full FIFO loses it (R117). -/
def pushRx (s : State) (m : Byte) : List Byte := if full s.cfg.rxd s.sel.rxf then s.sel.rxf else s.sel.rxf ++ [m]

/-- Shifter end (R116, R117). -/
def endByte (s : State) : State :=
  emit (.byte s.ctrlSel s.line s.sel.shMosi (drawMiso s))
    { s.setSel { s.sel with rxf := pushRx s (drawMiso s), shBusy := false } with
      miso := s.miso.tail
      marks := if full s.cfg.rxd s.sel.rxf then s.marks ++ [.rxOverflow] else s.marks }

/-- The effect of one of the block's steps. -/
def stepEffect (b : BlockStep) (s : State) : State :=
  match b with
  | .dummyBurst => issueBurst s
  | .discard => discardByte s
  | .endRun => { s with phase := .tail }
  | .leaveTail => leaveTail s
  | .shiftStart => startByte s
  | .shiftEnd => endByte s

/-- A turn of the block: the step where it is enabled, nothing where it is not (log 1). -/
def blockStep (b : BlockStep) (s : State) : State := if enabled b s then stepEffect b s else s

/-- All of the block's steps, in the order of their rules. -/
def allSteps : List BlockStep := [.dummyBurst, .discard, .endRun, .leaveTail, .shiftStart, .shiftEnd]

/-- The block's steps that are enabled. -/
def enabledSteps (s : State) : List BlockStep := allSteps.filter fun b => enabled b s

end Sys2Proof.Machine
end

