-- ==== Sys2Proof/Machine/Turn.lean ====
section
/-! DEFINITION. What one turn of an agent does (R7): the requester's fetch, decode and execution of a statement of
its program, the block's steps, and the platform; and which agent moves where `turns` names none. -/

namespace Sys2Proof.Machine

/-- A pseudo-instruction or polling statement (R92, R93): the micro-statements or the SPI-NOR command it is. -/
def runPseudo (p : Pseudo) (s : State) : Host.Outcome State Fault Refusal :=
  match p with
  | .poll off mask val => .next (startSequence [.poll off mask val] s)
  | .tx b => .next (startSequence [.poll 0x08 0x4#32 0x4#32, .write 0x0C (b.zeroExtend 32)] s)
  | .rx => .next (startSequence [.poll 0x08 0x8#32 0x8#32, .read 0x10] s)
  | .seg f n tx => .next (startSequence [.seg f n tx] s)
  | .flashRead len off => exec (flashReadInstr len off) s
  | .flashWren => exec .wren s
  | .flashWrdi => exec .wrdi s
  | .flashRdsr1 => exec .rdsr1 s
  | .flashErase off => exec (flashEraseInstr off) s
  | .flashProgram src off => exec (flashProgramInstr src off) s
  | .flashWaitIdle => .next (startSequence [.waitIdle] s)
  | .readcrc off size =>
    if readcrcInRange off size then .next (startSequence (readcrcSequence off size) s) else .refused .readcrcRange
  | .custom tx rxSize => .next (startSequence (customSequence tx rxSize) s)

/-- A bus address as an offset of the window at QSPIX_BASE (R64). -/
def windowOffset (p : Config.Params) (address : Nat) : Option Nat :=
  if p.base ≤ address ∧ address < p.base + Config.windowSize then some (address - p.base) else none

/-- A statement of the requester's program (R92), its own program counter already moved on. -/
def runStmt (st : Stmt) (s : State) : Host.Outcome State Fault Refusal :=
  match st with
  | .request r => runRequest r s
  | .busWrite a size v =>
    match windowOffset s.cfg a with
    | some off => runRequest (.write off size v) s
    | none => .fault .outsideWindow
  | .busRead a size =>
    match windowOffset s.cfg a with
    | some off => runRequest (.read off size) s
    | none => .fault .outsideWindow
  | .pseudo p => runPseudo p s
  | .branch target => .next { s with rpc := target }
  | .branchIf mask val target => .next { s with rpc := if s.lastRead &&& mask = val then target else s.rpc }

/-- A turn of the requester: the next micro-statement of the pseudo-instruction it is running, or else the next
statement of its program; nothing where the program has ended. -/
def requesterTurn (s : State) : Host.Outcome State Fault Refusal :=
  match s.client with
  | op :: rest => clientStep op { s with client := rest }
  | [] =>
    match s.prog[s.rpc]? with
    | some st => runStmt st { s with rpc := s.rpc + 1 }
    | none => .next s

/-- One turn of an agent (R7). -/
def runTurn (t : Turn) (s : State) : Host.Outcome State Fault Refusal :=
  match t with
  | .requester => requesterTurn s
  | .block b => .next (blockStep b s)
  | .reset => .next (platformReset s)
  | .setInit c v => platformSetInit c v s

/-- The agent that moves where `turns` names none: a step of the block that is enabled, of several a free one;
else the requester (R8, log 2). -/
def nextTurn (s : State) : Turn :=
  match enabledSteps s with
  | [] => .requester
  | [b] => .block b
  | b :: b' :: rest => .block ((b :: b' :: rest).getD (Config.freeAgent s.freeCtr % (rest.length + 2)) b)

/-- A turn `turns` does not name; a free choice is used up where there was one to make. -/
def ownTurn (s : State) : Host.Outcome State Fault Refusal :=
  runTurn (nextTurn s) { s with freeCtr := if 2 ≤ (enabledSteps s).length then s.freeCtr + 1 else s.freeCtr }

/-- The state whose requester is about to run `r` next. -/
def placeRequest (r : Request) (s : State) : State :=
  { s with turns := [.requester], client := [], prog := [.request r], rpc := 0 }

end Sys2Proof.Machine
end

