-- ==== Sys2Proof/Machine/Step.lean ====
section
/-! DEFINITION. One step of the machine: one turn of one agent (R7). -/

namespace Sys2Proof.Machine

/-- The turn `turns` names next, or a turn of the block's or the requester's own (logs 1 and 2). -/
def step (s : State) : Host.Outcome State Fault Refusal :=
  match s.turns with
  | t :: rest => runTurn t { s with turns := rest }
  | [] => ownTurn s

/-- `s` with the request a table word stands for as the requester's program, and the requester's turn (log 16). -/
def State.withFetchWord (s : State) (nbits w : Nat) : State := placeRequest (tableRequest nbits w) s

end Sys2Proof.Machine
end

