-- ==== Sys2Proof/Safety.lean ====
section
/-! DEFINITION. What counts as a safe run, in the terms claims use: no recorded fault (R224), the invariants the spec
derives (R38, R48, R71, R120, R121), the pairing of a segment's bytes (R109, R118, R164), and the discipline of the
bus trace (R72, R141). -/

namespace Sys2Proof.Machine

/-- No misuse was recorded: the premise R224 asks claims to be able to take. -/
def State.Clean (s : State) : Prop := s.marks = []

/-- The OP of a CMD word (R80). -/
def opOf (w : Word) : Nat := (w.extractLsb' 0 4).toNat

/-- A CMD word whose OP is one of the four commands and in which a must-be-zero bit of its format is 1 (R81, R87). -/
def ReservedBitSet (w : Word) : Prop :=
  (opOf w = 0x1 ∧ w.extractLsb' 8 24 ≠ 0#24) ∨
  (opOf w = 0x2 ∧ (w.extractLsb' 16 16 ≠ 0#16 ∨ w.extractLsb' 5 3 ≠ 0#3)) ∨
  (opOf w = 0x3 ∧ w.extractLsb' 4 28 ≠ 0#28) ∨
  (opOf w = 0x4 ∧ (w.extractLsb' 16 16 ≠ 0#16 ∨ w.extractLsb' 4 4 ≠ 0#4))

/-- A mask with exactly one bit set, that bit below NCS (R84, R94), said bit by bit. -/
def OneLine (ncs : Nat) (m : Byte) : Prop := ∃ i, i < ncs ∧ i < 8 ∧ m = 1#8 <<< i

/-- An illegal CMD word (R87): a reserved OP, a must-be-zero bit that is 1, or a SELECT whose mask is not legal. -/
def IllegalWord (ncs : Nat) (w : Word) : Prop :=
  (opOf w = 0x0 ∨ 0x5 ≤ opOf w) ∨ ReservedBitSet w ∨ (opOf w = 0x2 ∧ ¬ OneLine ncs (w.extractLsb' 8 8))

/-- Parameter values R6 allows. -/
def Params.Legal (p : Config.Params) : Prop := 1 ≤ p.txd ∧ 1 ≤ p.rxd ∧ 1 ≤ p.ncs ∧ p.ncs ≤ 8

/-- A controller core with nothing to do: both FIFOs empty, no dummy byte pending, the shifter idle (R121). -/
def Ctl.Quiet (k : Ctl) : Prop := k.txf = [] ∧ k.rxf = [] ∧ k.dummyPending = 0 ∧ k.shBusy = false

/-- Bytes the shifter has started and not ended: 0 or 1 (R120). -/
def Ctl.inShifter (k : Ctl) : Nat := if k.shBusy then 1 else 0

/-- The invariant of the block under RX_FULL_POLICY = stall. -/
structure Inv (s : State) : Prop where
  /-- R6. -/
  params : Params.Legal s.cfg
  /-- The block's policy (R6). -/
  stall : s.cfg.rxFull = .stall
  /-- The chip-select mask is one-hot with its bit below NCS (R38). -/
  mask : ssmaskLegal s.cfg.ncs s.ssmask = true
  /-- R48. -/
  aux : ∀ c, (s.ctl c).auxCs = (s.ss && decide (c = s.ctrlSel))
  /-- The core that is not selected has nothing to do (R232). -/
  other : ∀ c, c ≠ s.ctrlSel → (s.ctl c).Quiet
  /-- R121. -/
  idle : s.phase = .idle → s.sel.Quiet
  /-- Chip-select is asserted while a segment runs (R103). -/
  asserted : s.phase ≠ .idle → s.ss = true
  /-- R120, `started` and `done` eliminated. -/
  count : s.phase ≠ .idle →
    s.txCount = s.rxCount + s.sel.rxf.length + s.sel.inShifter + s.sel.txf.length + s.sel.dummyPending
  /-- R120. -/
  bound : s.phase ≠ .idle → s.txCount ≤ s.seg.len.toNat
  /-- R111, R112. -/
  tail : s.phase = .tail → s.txCount = s.seg.len.toNat ∧ s.rxCount = s.seg.len.toNat
  /-- FIFO capacities, with room kept for the byte in the shifter (R44, R45, R117). -/
  txCap : s.sel.txf.length ≤ s.cfg.txd
  rxCap : s.sel.rxf.length + s.sel.inShifter ≤ s.cfg.rxd
  /-- R46. -/
  dummyCap : s.sel.dummyPending ≤ Config.maxDummyBurst
  /-- Data bytes and dummy bytes never mix in a segment (R71). -/
  source : s.phase ≠ .idle → if s.seg.txp then s.sel.dummyPending = 0 else s.sel.txf = []

/-- The bus events of the segment last accepted. -/
def State.segEvents (s : State) : List BusEvent := s.trace.drop s.hist.base

/-- The bytes clocked out in a piece of the trace. -/
def mosiBytes (es : List BusEvent) : List Byte :=
  es.filterMap fun e => match e with | .byte _ _ mosi _ => some mosi | _ => none

/-- The bytes clocked in, in a piece of the trace. -/
def misoBytes (es : List BusEvent) : List Byte :=
  es.filterMap fun e => match e with | .byte _ _ _ miso => some miso | _ => none

/-- The byte in the shifter, if any. -/
def Ctl.shifting (k : Ctl) : List Byte := if k.shBusy then [k.shMosi] else []

/-- The burst sizes of R109 after `n` of a segment's `len` bytes were asked for: 240s, and the remainder last. -/
def burstSizes (len n : Nat) : List Nat :=
  List.replicate (n / Config.maxDummyBurst) Config.maxDummyBurst ++
    (if n = len ∧ len % Config.maxDummyBurst ≠ 0 then [len % Config.maxDummyBurst] else [])

/-- The record of a running segment: what went out, what came in, what was folded (R109, R118, R120, R124, R164). -/
structure SegInv (s : State) : Prop where
  /-- The segment's events all stand at the end of the trace. -/
  base : s.phase ≠ .idle → s.hist.base ≤ s.trace.length
  /-- While it runs they are exchanges on the selected line (R72, R141). -/
  events : s.phase ≠ .idle → ∀ e ∈ s.segEvents, ∃ mosi miso, e = .byte s.ctrlSel s.line mosi miso
  /-- The bytes taken and those in the RX FIFO are the MISO bytes, in bus order (R118, R124). -/
  pairing : s.phase ≠ .idle → s.hist.taken ++ s.sel.rxf = misoBytes s.segEvents
  /-- The MOSI bytes, the byte in the shifter and the TX FIFO are the bytes accepted (R118). -/
  sent : s.phase ≠ .idle → s.seg.txp = true →
    s.hist.fed = mosiBytes s.segEvents ++ s.sel.shifting ++ s.sel.txf
  /-- In a segment with no TX data every MOSI byte is DUMMY_BYTE (R118). -/
  dummies : s.phase ≠ .idle → s.seg.txp = false →
    ∀ b ∈ mosiBytes s.segEvents ++ s.sel.shifting, b = s.cfg.dummyByte
  /-- R42, R43. -/
  counted : s.phase ≠ .idle →
    s.hist.taken.length = s.rxCount ∧ (s.seg.txp = true → s.hist.fed.length = s.txCount)
  /-- R164: CRCEN = 1 folds the bytes taken, in the order taken; CRCEN = 0 folds none. -/
  folded : s.phase ≠ .idle → s.crc = if s.seg.crcen then crcFold s.hist.crc0 s.hist.taken else s.hist.crc0
  /-- R109: the sizes, and that they add up to the bytes asked for. -/
  bursts : s.phase ≠ .idle → s.seg.txp = false →
    s.hist.bursts = burstSizes s.seg.len.toNat s.txCount ∧ s.hist.bursts.sum = s.txCount

/-- Which line a trace leaves asserted: `none` inside where none is, and `none` outside where the trace breaks the
discipline that a line goes low, exchanges bytes, and goes high again before any other does. -/
def busStep (st : Option (Option (BitVec 1 × Nat))) (e : BusEvent) : Option (Option (BitVec 1 × Nat)) :=
  match st, e with
  | some none, .csLow c i => some (some (c, i))
  | some (some l), .byte c i _ _ => if l = (c, i) then some (some l) else none
  | some (some l), .csHigh c i => if l = (c, i) then some none else none
  | _, _ => none

/-- The line asserted after a whole trace. -/
def busState (trace : List BusEvent) : Option (Option (BitVec 1 × Nat)) := trace.foldl busStep (some none)

/-- The bus trace keeps the discipline, and the line it leaves asserted is the selected one exactly while SS = 1
(R72, R103, R113, R141, R251). -/
def BusInv (s : State) : Prop := busState s.trace = some (if s.ss then some (s.ctrlSel, s.line) else none)

/-! ### Bus frames of the SPI-NOR sequences -/

/-- The events of one command on line `i` of core `c`: CsLow (not where the line is already low), the exchanges `xs`
(MOSI, MISO), CsHigh (R91). -/
def busFrame (low : Bool) (c : BitVec 1) (i : Nat) (xs : List (Byte × Byte)) : List BusEvent :=
  (if low then [] else [.csLow c i]) ++ xs.map (fun x => .byte c i x.1 x.2) ++ [.csHigh c i]

/-- `st` sends the bytes `h` and then clocks `n` bytes in, under one chip-select: FLASH_READ, READ and READ4 (R182),
FLASH_RDSR1 and RDSR1 (R185), RDID and CUSTOM (R193). -/
def SendsThenReads (st : Stmt) (h : List Byte) (n : Word) : Prop :=
  (∃ off, st = .pseudo (.flashRead n off) ∧ h = hdr 0x03#8 0x13#8 off) ∨
  (∃ dummy off, st = .request (encode dummy (.read off n)) ∧ h = 0x03#8 :: bytes3 off) ∨
  (∃ dummy off, st = .request (encode dummy (.read4 off n)) ∧ h = 0x13#8 :: bytes4 off) ∨
  ((st = .pseudo .flashRdsr1 ∨ ∃ dummy, st = .request (encode dummy .rdsr1)) ∧ h = [0x05#8] ∧ n = 1#32) ∨
  (∃ dummy, st = .request (encode dummy (.rdid n)) ∧ h = [0x9F#8]) ∨
  (st = .pseudo (.custom h n) ∧ h.length < 2 ^ 32 ∧ (h ≠ [] ∨ n ≠ 0#32))

/-- `st` sends the frame `cmd` and then waits for the flash to be idle: FLASH_PROGRAM, PP and PP4 (R187), FLASH_ERASE,
SE and SE4 (R186). -/
def ProgramsOrErases (st : Stmt) (cmd : List Byte) : Prop :=
  (∃ src off, src.length < 2 ^ 32 ∧ st = .pseudo (.flashProgram src off) ∧ cmd = hdr 0x02#8 0x12#8 off ++ src) ∨
  (∃ dummy off src, src.length < 2 ^ 32 ∧ st = .request (encode dummy (.pp off src)) ∧
    cmd = 0x02#8 :: bytes3 off ++ src) ∨
  (∃ dummy off src, src.length < 2 ^ 32 ∧ st = .request (encode dummy (.pp4 off src)) ∧
    cmd = 0x12#8 :: bytes4 off ++ src) ∨
  (∃ off, st = .pseudo (.flashErase off) ∧ cmd = hdr 0xD8#8 0xDC#8 off) ∨
  (∃ dummy off, st = .request (encode dummy (.se off)) ∧ cmd = 0xD8#8 :: bytes3 off) ∨
  (∃ dummy off, st = .request (encode dummy (.se4 off)) ∧ cmd = 0xDC#8 :: bytes4 off)

/-- How many chunks READCRC cuts `size` bytes into (R190). -/
def chunkCount (size : Nat) : Nat := (size + 1023) / 1024

/-- The offset chunk `j` starts at (R190). -/
def chunkOffset (off : Word) (j : Nat) : Word := BitVec.ofNat 32 (off.toNat + 1024 * j)

/-- The exchanges of chunk `j` of READCRC over a slave that answers its header with `junk j` and a READ at offset `a`
with `F a`, `F (a + 1)`, … (R190, R191). -/
def chunkExchanges (dummy : Byte) (F : Nat → Byte) (junk : Nat → List Byte) (off : Word) (size j : Nat) :
    List (Byte × Byte) :=
  (hdr 0x03#8 0x13#8 (chunkOffset off j)).zip (junk j) ++
    (List.range (min 1024 (size - 1024 * j))).map fun i => (dummy, F (off.toNat + 1024 * j + i))

end Sys2Proof.Machine
end

