-- ==== Sys2Proof/Certificates/Slice0/Obligations.lean ====
section
/-! DEFINITION. The statements for the provers. Each docstring names the rules it formalises; "(the model's)" marks a
clause that rests on a log entry and not on the spec's own words. -/

open Sys2Proof
open Sys2Proof.Machine

/-! ### Encoding -/

/-- R81, R89, R91: decoding the encoding of a well-formed instruction gives it back, with every operand, whatever
byte is clocked out while bytes come in. -/
def Obligations.DecodeInvertsEncode : Prop :=
  ∀ (dummy : Byte) (i : Instr), i.wf = true → decode (encode dummy i) = .ok i

/-- R81, R89: a command word or a register access that decodes is the encoding of what it decodes to, so no bit of
either is dropped. -/
def Obligations.EncodeInvertsDecode : Prop :=
  (∀ (dummy : Byte) (w : Word) (i : Instr), decode (.command w) = .ok i → encode dummy i = .command w) ∧
  (∀ (dummy : Byte) (off size : Nat) (v : Word) (i : Instr),
    decode (.write off size v) = .ok i → encode dummy i = .write off size v) ∧
  (∀ (dummy : Byte) (off size : Nat) (i : Instr), decode (.read off size) = .ok i → encode dummy i = .read off size)

/-- R60, R62, R64: exactly the aligned 32-bit accesses inside the window are decoded. -/
def Obligations.AccessDecodesIffLegal : Prop :=
  ∀ (off size : Nat) (v : Word),
    ((∃ i, decode (.write off size v) = .ok i) ↔ (off < 0x20 ∧ off % 4 = 0 ∧ size = 4)) ∧
    ((∃ i, decode (.read off size) = .ok i) ↔ (off < 0x20 ∧ off % 4 = 0 ∧ size = 4))

/-- R81, R94: the decoder rejects a CMD word exactly where its OP is one of the four commands and a must-be-zero bit of
its format is 1; and the mask test of R94 accepts exactly the masks of one line below NCS, whose index is that line.
R87's other illegal words are decoded and raise ERR_CMD where they are executed: that SELECT's mask and the reserved OPs
are left to the execution is the model's choice (log 14), and CommandErrorPriority states their error. -/
def Obligations.CommandWordRejectedIffReservedBitSet : Prop :=
  (∀ w : Word, decode (.command w) = .error .illegalCommand ↔ ReservedBitSet w) ∧
  (∀ (ncs : Nat) (m : Byte), ssmaskLegal ncs m = true ↔ OneLine ncs m) ∧
  (∀ i, i < 8 → idx (1#8 <<< i) = i)

/-- R95, R90 and 95_test_vectors.md L1.3: words and frames written out by the spec decode to what they stand for. -/
def Obligations.SpecWordsDecode : Prop :=
  decode (.command 0x00000051#32) = .ok (.xfer true false true false) ∧
  decode (.command 0x000000E1#32) = .ok (.xfer false true true true) ∧
  decode (.command 0x00000112#32) = .ok (.select 1#1 0x01#8) ∧
  decode (.command 0x00000003#32) = .ok .crcinit ∧
  decode (.command 0x0000DE04#32) = .ok (.crcfeed 0xDE#8) ∧
  decode (.write 0x0C 4 0x00000103#32) = .ok (.txdataW 0x00000103#32) ∧
  decode (.read 0x18 4) = .ok .crcR ∧
  decode (.frame [0x03#8, 0xFF#8, 0xFF#8, 0xFE#8]) = .ok (.read 0xFFFFFE#24 0#32) ∧
  decode (.frame [0xDC#8, 0x01#8, 0x00#8, 0x00#8, 0x00#8]) = .ok (.se4 0x01000000#32) ∧
  decode (.frame [0x06#8]) = .ok .wren

/-- R180: the two forms of the address rule agree; the address is sent in that many bytes, most significant first
(read back as a big-endian number it is the offset), and the commands FLASH_READ, FLASH_PROGRAM and FLASH_ERASE
choose send the header of that width. -/
def Obligations.AddressRule : Prop :=
  ∀ (off : Word) (dummy : Byte),
    (abytes off = 4 ↔ 0x01000000 ≤ off.toNat) ∧ (abytes off = 3 ↔ off.toNat < 0x01000000) ∧
    (addr off).length = abytes off ∧ (addr off).foldl (fun n b => n * 256 + b.toNat) 0 = off.toNat ∧
    encode dummy (flashReadInstr 0#32 off) = .frame (hdr 0x03#8 0x13#8 off) ∧
    encode dummy (flashProgramInstr [] off) = .frame (hdr 0x02#8 0x12#8 off) ∧
    encode dummy (flashEraseInstr off) = .frame (hdr 0xD8#8 0xDC#8 off)

/-! ### The step -/

/-- R7, R60, R64: a step in which the requester's next statement is a request that decodes, or an access to a bus
address of the window that decodes at its offset, runs exactly that instruction; around it the step only uses up the
turn and moves the requester's own program counter. The last clause is the same of a word the host places (the model's:
log 16). -/
def Obligations.StepRunsDecodedInstruction : Prop :=
  (∀ (s : State) (rest : List Turn) (r : Request) (i : Instr),
    s.turns = .requester :: rest → s.client = [] → s.prog[s.rpc]? = some (.request r) → decode r = .ok i →
    step s = exec i { s with turns := rest, rpc := s.rpc + 1 }) ∧
  (∀ (s : State) (rest : List Turn) (a size : Nat) (v : Word) (i : Instr),
    s.turns = .requester :: rest → s.client = [] → s.cfg.base ≤ a → a < s.cfg.base + 0x20 →
    (s.prog[s.rpc]? = some (.busWrite a size v) → decode (.write (a - s.cfg.base) size v) = .ok i →
      step s = exec i { s with turns := rest, rpc := s.rpc + 1 }) ∧
    (s.prog[s.rpc]? = some (.busRead a size) → decode (.read (a - s.cfg.base) size) = .ok i →
      step s = exec i { s with turns := rest, rpc := s.rpc + 1 })) ∧
  (∀ (s : State) (nbits w : Nat) (i : Instr), decodeTableWord nbits w = some i →
    step (s.withFetchWord nbits w) =
      exec i { s with turns := [], client := [], prog := [.request (tableRequest nbits w)], rpc := 1 })

/-- R87, R62, R60, R64: what a request the decoder rejects does. A CMD word with a must-be-zero bit set only raises
ERR_CMD (ERR_BUSY while a segment runs). A misaligned or narrow access, a POLL's among them, is refused, as R62 asks of a
model; where the parameter `badAccess` is `ignore` it is ignored as R62 says of the hardware, a read of it returns 0, and
the model marks it (the parameter is the model's: log 7). An access outside the window, by its offset, by its bus address
or in a POLL, stops the machine (the model's: log 8). A frame of no named command is sent as CUSTOM sends it (the
model's: log 13). -/
def Obligations.RejectedRequestEffect : Prop :=
  ∀ s : State,
    (∀ w, ReservedBitSet w →
      runRequest (.command w) s = .next (raiseError (if s.phase = .idle then .cmd else .busy) s)) ∧
    (∀ off size v, s.cfg.badAccess = .refuse → off < 0x20 → (off % 4 ≠ 0 ∨ size ≠ 4) →
      runRequest (.write off size v) s = .refused .badAccess ∧ runRequest (.read off size) s = .refused .badAccess) ∧
    (∀ off size v, s.cfg.badAccess = .ignore → off < 0x20 → (off % 4 ≠ 0 ∨ size ≠ 4) →
      runRequest (.write off size v) s = .next { s with marks := s.marks ++ [.notLegal] } ∧
      runRequest (.read off size) s =
        .next { s with marks := s.marks ++ [.notLegal], reads := s.reads ++ [0#32] }) ∧
    (∀ off size v, 0x20 ≤ off →
      runRequest (.write off size v) s = .fault .outsideWindow ∧
      runRequest (.read off size) s = .fault .outsideWindow) ∧
    (∀ a size v, (a < s.cfg.base ∨ s.cfg.base + 0x20 ≤ a) →
      runStmt (.busWrite a size v) s = .fault .outsideWindow ∧ runStmt (.busRead a size) s = .fault .outsideWindow) ∧
    (∀ off mask val, 0x20 ≤ off → clientStep (.poll off mask val) s = .fault .outsideWindow) ∧
    (∀ off mask val, s.cfg.badAccess = .refuse → off < 0x20 → off % 4 ≠ 0 →
      clientStep (.poll off mask val) s = .refused .badAccess) ∧
    (∀ mosi e, decode (.frame mosi) = .error e →
      runRequest (.frame mosi) s = .next { s with client := customSequence mosi 0#32 ++ s.client })

/-- R7, R8: where no turn is named, an enabled step of the block is taken before the requester moves (the model's:
log 2). -/
def Obligations.OwnTurnTakesAnEnabledStep : Prop :=
  ∀ s : State, s.turns = [] → enabledSteps s ≠ [] →
    ∃ b n, enabled b s = true ∧ step s = .next { blockStep b s with freeCtr := n }

/-! ### Errors -/

/-- R220, R221: an error sets its own STATUS bit and changes nothing else of the block; the model records it. -/
def Obligations.ErrorSetsOnlyItsBit : Prop :=
  ∀ (k : ErrKind) (s : State),
    raiseError k s = { s with err := (raiseError k s).err, marks := s.marks ++ [.error k] } ∧
    ∀ j, j < 6 → (raiseError k s).statusWord.getLsbD (8 + j) =
      (s.statusWord.getLsbD (8 + j) ||
        decide (8 + j = match k with | .cmd => 8 | .busy => 9 | .txw => 10 | .rxr => 11 | .sel => 12 | .noinit => 13))

/-- R94: the decode of a CMD word and the execution of a CMD write, case by case; it always completes. -/
def Obligations.CmdWriteFollowsDecodeTable : Prop :=
  ∀ (w : Word) (s : State),
    (∃ t, exec (.cmdW w) s = .next t) ∧
    exec (.cmdW w) s =
      if s.phase ≠ .idle then .next (raiseError .busy s)
      else if opOf w = 0x1 ∧ w.extractLsb' 8 24 = 0#24 then
        exec (.xfer (w.getLsbD 4) (w.getLsbD 5) (w.getLsbD 6) (w.getLsbD 7)) s
      else if opOf w = 0x2 ∧ w.extractLsb' 16 16 = 0#16 ∧ w.extractLsb' 5 3 = 0#3 ∧
          w.extractLsb' 8 8 ≠ 0#8 ∧ w.extractLsb' 8 8 &&& (w.extractLsb' 8 8 - 1#8) = 0#8 ∧
          idx (w.extractLsb' 8 8) < s.cfg.ncs then
        exec (.select (w.extractLsb' 4 1) (w.extractLsb' 8 8)) s
      else if opOf w = 0x3 ∧ w.extractLsb' 4 28 = 0#28 then exec .crcinit s
      else if opOf w = 0x4 ∧ w.extractLsb' 16 16 = 0#16 ∧ w.extractLsb' 4 4 = 0#4 then
        exec (.crcfeed (w.extractLsb' 8 8)) s
      else .next (raiseError .cmd s)

/-- R222: the order in which a CMD write is checked; only the first error found is raised. -/
def Obligations.CommandErrorPriority : Prop :=
  ∀ (w : Word) (s : State),
    (s.phase ≠ .idle → exec (.cmdW w) s = .next (raiseError .busy s)) ∧
    (s.phase = .idle → IllegalWord s.cfg.ncs w → exec (.cmdW w) s = .next (raiseError .cmd s)) ∧
    (s.phase = .idle → ¬ IllegalWord s.cfg.ncs w → opOf w = 0x2 → s.ss = true →
      exec (.cmdW w) s = .next (raiseError .sel s)) ∧
    (s.phase = .idle → ¬ IllegalWord s.cfg.ncs w → opOf w = 0x1 → s.initDone s.ctrlSel = false →
      exec (.cmdW w) s = .next (raiseError .noinit s))

/-- R82, R87: a reserved OP completes by raising ERR_CMD in IDLE, whatever its other bits, and ERR_BUSY while a
segment runs. -/
def Obligations.ReservedOpRaisesErrCmd : Prop :=
  ∀ (rest : BitVec 28) (s : State) (i : Instr),
    i ∈ [Instr.reservedOp0 rest, .reservedOp5 rest, .reservedOp6 rest, .reservedOp7 rest, .reservedOp8 rest,
      .reservedOp9 rest, .reservedOpA rest, .reservedOpB rest, .reservedOpC rest, .reservedOpD rest,
      .reservedOpE rest, .reservedOpF rest] →
    (s.phase = .idle →
      exec i s = .next { s with err := s.err ||| 0b000001#6, marks := s.marks ++ [.error .cmd] }) ∧
    (s.phase ≠ .idle →
      exec i s = .next { s with err := s.err ||| 0b000010#6, marks := s.marks ++ [.error .busy] })

/-- R223: a step raises at most one error: at most one error bit becomes 1 and at most one mark is recorded. -/
def Obligations.AtMostOneErrorPerStep : Prop :=
  ∀ s t : State, step s = .next t →
    (t.marks = s.marks ∨ ∃ m, t.marks = s.marks ++ [m]) ∧
    ∃ k, k < 6 ∧ ∀ j, j < 6 → j ≠ k → t.err.getLsbD j = true → s.err.getLsbD j = true

/-- R30: an error bit stays 1 until it is written with 1 or the block is reset: no instruction but STATUS.W with its
bit set clears it, and no step of the block does. -/
def Obligations.ErrorBitsAreSticky : Prop :=
  (∀ (i : Instr) (s t : State) (j : Nat), exec i s = .next t → s.err.getLsbD j = true → t.err.getLsbD j = false →
    ∃ v, i = .statusW v ∧ v.getLsbD (8 + j) = true) ∧
  (∀ (b : BlockStep) (s : State), (blockStep b s).err = s.err) ∧
  (∀ (op : ClientOp) (s t : State) (j : Nat), clientStep op s = .next t → s.err.getLsbD j = true →
    t.err.getLsbD j = false → ∃ v, op = .write 0x08 v ∧ v.getLsbD (8 + j) = true)

/-! ### Register accesses -/

/-- R24 to R29: the bits of the STATUS word. -/
def Obligations.StatusWordBits : Prop :=
  ∀ s : State,
    s.statusWord.getLsbD 0 = decide (s.phase ≠ .idle) ∧
    s.statusWord.getLsbD 1 = s.ss ∧
    s.statusWord.getLsbD 2 = (decide (s.phase = .run) && s.seg.txp && decide (s.txCount < s.seg.len.toNat) &&
      decide ((s.ctl s.ctrlSel).txf.length < s.cfg.txd)) ∧
    s.statusWord.getLsbD 3 =
      (decide (s.phase = .run) && s.seg.rxp && decide (0 < (s.ctl s.ctrlSel).rxf.length)) ∧
    s.statusWord.extractLsb' 4 1 = s.ctrlSel ∧
    s.statusWord.getLsbD 5 = (if s.ctrlSel = 0#1 then s.initDone0 else s.initDone1) ∧
    s.statusWord.extractLsb' 6 2 = 0#2 ∧ s.statusWord.extractLsb' 8 6 = s.err ∧
    s.statusWord.extractLsb' 14 18 = 0#18

/-- R143, R144, R146, R165, R34, R35: a plain read returns its register and changes nothing else. -/
def Obligations.PlainReadsReturnRegisters : Prop :=
  ∀ s : State,
    exec .lenR s = .next { s with reads := s.reads ++ [s.len] } ∧
    exec .statusR s = .next { s with reads := s.reads ++ [s.statusWord] } ∧
    (∃ v : Word, exec .selR s = .next { s with reads := s.reads ++ [v] } ∧ v.extractLsb' 0 1 = s.ctrlSel ∧
      v.extractLsb' 1 7 = 0#7 ∧ v.extractLsb' 8 8 = s.ssmask ∧ v.extractLsb' 16 16 = 0#16) ∧
    (∃ v : Word, exec .crcR s = .next { s with reads := s.reads ++ [v] } ∧ v.extractLsb' 0 16 = s.crc ∧
      v.extractLsb' 16 16 = 0#16)

/-- R147, R36: the accesses that do nothing. -/
def Obligations.IgnoredAccessesDoNothing : Prop :=
  ∀ (s : State) (v : Word),
    (∀ a, a ∈ [IgnoredAccess.readCmd, .readTxdata, .readReserved] →
      exec (.ignored a) s = .next { s with reads := s.reads ++ [0#32] }) ∧
    (∀ a, a ∈ [IgnoredAccess.writeRxdata v, .writeSel v, .writeCrc v, .writeReserved v] →
      exec (.ignored a) s = .next s)

/-- R142, R143, R75: LEN takes every value at any time and nothing else changes (not the descriptor of a running
segment), and a read gives the value last written. -/
def Obligations.LenWriteReadBack : Prop :=
  ∀ (s : State) (v : Word),
    exec (.lenW v) s = .next { s with len := v } ∧
    exec .lenR { s with len := v } = .next { s with len := v, reads := s.reads ++ [v] }

/-- R145: a STATUS write clears exactly the error bits written with 1 and changes nothing else. -/
def Obligations.StatusWriteClearsNamedBits : Prop :=
  ∀ (s : State) (v : Word), ∃ e : BitVec 6,
    exec (.statusW v) s = .next { s with err := e } ∧
    ∀ j, j < 6 → e.getLsbD j = (s.err.getLsbD j && !v.getLsbD (8 + j))

/-! ### XFER and its byte ports -/

/-- R101, R103, R102: an XFER in IDLE is accepted where INIT_DONE of the selected core is 1, with everything the
acceptance changes, and otherwise raises ERR_NOINIT alone. R100, R222: while a segment runs it raises ERR_BUSY alone. -/
def Obligations.XferAcceptance : Prop :=
  ∀ (txp rxp last crcen : Bool) (s : State),
    (s.phase = .idle → s.initDone s.ctrlSel = true → ∃ trace : List BusEvent,
      trace = s.trace ++ (if s.ss then [] else [.csLow s.ctrlSel (idx s.ssmask)]) ∧
      exec (.xfer txp rxp last crcen) s =
        .next { (if s.ss then s else s.setCtl s.ctrlSel { s.ctl s.ctrlSel with auxCs := true }) with
          ss := true
          trace := trace
          seg := { txp := txp, rxp := rxp, last := last, crcen := crcen, len := s.len }
          txCount := 0
          rxCount := 0
          phase := .run
          hist := { base := trace.length, crc0 := s.crc, fed := [], taken := [], bursts := [] } }) ∧
    (s.phase = .idle → s.initDone s.ctrlSel = false →
      exec (.xfer txp rxp last crcen) s = .next (raiseError .noinit s)) ∧
    (s.phase ≠ .idle → exec (.xfer txp rxp last crcen) s = .next (raiseError .busy s))

/-- R104, R105: a TXDATA write with TXRDY = 1 pushes its low byte and counts it; with TXRDY = 0 it raises ERR_TXW and
changes nothing else. -/
def Obligations.TxdataWriteEffect : Prop :=
  ∀ (s : State) (v : Word),
    (s.statusWord.getLsbD 2 = true →
      exec (.txdataW v) s =
        .next { s.setCtl s.ctrlSel
            { s.ctl s.ctrlSel with txf := (s.ctl s.ctrlSel).txf ++ [v.extractLsb' 0 8] } with
          txCount := s.txCount + 1
          hist := { s.hist with fed := s.hist.fed ++ [v.extractLsb' 0 8] } }) ∧
    (s.statusWord.getLsbD 2 = false → exec (.txdataW v) s = .next (raiseError .txw s)) ∧
    (s.statusWord.getLsbD 2 = false ↔
      (s.phase ≠ .run ∨ s.seg.txp = false ∨ s.seg.len.toNat ≤ s.txCount ∨
        s.cfg.txd ≤ (s.ctl s.ctrlSel).txf.length))

/-- R106, R107: an RXDATA read with RXAVL = 1 takes the oldest byte, counts it, folds it where CRCEN = 1 and returns
it; with RXAVL = 0 it raises ERR_RXR, returns 0 and changes nothing else. -/
def Obligations.RxdataReadEffect : Prop :=
  ∀ (s : State) (b : Byte) (rest : List Byte),
    (s.statusWord.getLsbD 3 = true → (s.ctl s.ctrlSel).rxf = b :: rest →
      exec .rxdataR s =
        .next { s.setCtl s.ctrlSel { s.ctl s.ctrlSel with rxf := rest } with
          rxCount := s.rxCount + 1
          crc := if s.seg.crcen then crc16Upd s.crc b else s.crc
          reads := s.reads ++ [b.zeroExtend 32]
          hist := { s.hist with taken := s.hist.taken ++ [b] } }) ∧
    (s.statusWord.getLsbD 3 = false →
      exec .rxdataR s =
        .next { s with
          err := s.err ||| 0b001000#6, marks := s.marks ++ [.error .rxr], reads := s.reads ++ [0#32] }) ∧
    (s.statusWord.getLsbD 3 = false ↔
      (s.phase ≠ .run ∨ s.seg.rxp = false ∨ (s.ctl s.ctrlSel).rxf = []))

/-! ### Sequencer and shifter -/

/-- R108: when a dummy burst is issued, how large it is, and what it changes. -/
def Obligations.DummyBurstStep : Prop :=
  ∀ s : State,
    (enabled .dummyBurst s = true ↔
      s.phase = .run ∧ s.seg.txp = false ∧ s.txCount < s.seg.len.toNat ∧
        (s.ctl s.ctrlSel).txf = [] ∧ (s.ctl s.ctrlSel).dummyPending = 0) ∧
    (enabled .dummyBurst s = true →
      blockStep .dummyBurst s =
        { s.setCtl s.ctrlSel { s.ctl s.ctrlSel with dummyPending := min (s.seg.len.toNat - s.txCount) 240 } with
          txCount := s.txCount + min (s.seg.len.toNat - s.txCount) 240
          hist := { s.hist with bursts := s.hist.bursts ++ [min (s.seg.len.toNat - s.txCount) 240] } })

/-- R110, R164: when a byte is discarded, and what that changes: it is counted and folded where CRCEN = 1, and the
requester reads nothing. -/
def Obligations.DiscardStep : Prop :=
  ∀ (s : State) (b : Byte) (rest : List Byte),
    (enabled .discard s = true ↔ s.phase = .run ∧ s.seg.rxp = false ∧ (s.ctl s.ctrlSel).rxf ≠ []) ∧
    (enabled .discard s = true → (s.ctl s.ctrlSel).rxf = b :: rest →
      blockStep .discard s =
        { s.setCtl s.ctrlSel { s.ctl s.ctrlSel with rxf := rest } with
          rxCount := s.rxCount + 1
          crc := if s.seg.crcen then crc16Upd s.crc b else s.crc
          hist := { s.hist with taken := s.hist.taken ++ [b] } })

/-- R111, R112, R113, R114: the ends of RUN and of the segment: when each is enabled and what it changes. -/
def Obligations.SegmentEndSteps : Prop :=
  ∀ s : State,
    (enabled .endRun s = true ↔
      s.phase = .run ∧ s.txCount = s.seg.len.toNat ∧ s.rxCount = s.seg.len.toNat) ∧
    (enabled .endRun s = true → blockStep .endRun s = { s with phase := .tail }) ∧
    (enabled .leaveTail s = true ↔
      s.phase = .tail ∧ (s.ctl s.ctrlSel).shBusy = false ∧ (s.ctl s.ctrlSel).txf = [] ∧
        (s.ctl s.ctrlSel).dummyPending = 0) ∧
    (enabled .leaveTail s = true → s.seg.last = true →
      blockStep .leaveTail s =
        { s.setCtl s.ctrlSel { s.ctl s.ctrlSel with auxCs := false } with
          ss := false, phase := .idle, trace := s.trace ++ [.csHigh s.ctrlSel (idx s.ssmask)] }) ∧
    (enabled .leaveTail s = true → s.seg.last = false → blockStep .leaveTail s = { s with phase := .idle })

/-- R115: when the shifter starts a byte, and which byte it is. -/
def Obligations.ShifterStartStep : Prop :=
  ∀ (s : State) (b : Byte) (rest : List Byte),
    (enabled .shiftStart s = true ↔
      (s.ctl s.ctrlSel).shBusy = false ∧
      ((s.ctl s.ctrlSel).txf ≠ [] ∨ 0 < (s.ctl s.ctrlSel).dummyPending) ∧
      (s.cfg.rxFull = .stall → (s.ctl s.ctrlSel).rxf.length < s.cfg.rxd)) ∧
    (enabled .shiftStart s = true → (s.ctl s.ctrlSel).txf = b :: rest →
      blockStep .shiftStart s =
        s.setCtl s.ctrlSel { s.ctl s.ctrlSel with txf := rest, shMosi := b, shBusy := true }) ∧
    (enabled .shiftStart s = true → (s.ctl s.ctrlSel).txf = [] →
      blockStep .shiftStart s =
        s.setCtl s.ctrlSel
          { s.ctl s.ctrlSel with
            dummyPending := (s.ctl s.ctrlSel).dummyPending - 1, shMosi := s.cfg.dummyByte, shBusy := true })

/-- R116, R117: the end of a byte: one byte out and one in, in one event; the byte enters the RX FIFO, or, where that
is full (only under RX_FULL_POLICY = overflow), is lost with a mark, its event recorded and the machine going on (that
much of the overflow is the model's reading of R117: log 4). The MISO byte is the slave's next answer whenever the
state's list `miso` names one (the list is the model's form of R9's oracle: log 5). -/
def Obligations.ShifterEndStep : Prop :=
  ∀ s : State, (s.ctl s.ctrlSel).shBusy = true → ∃ m : Byte, (∀ x xs, s.miso = x :: xs → m = x) ∧
    ((s.ctl s.ctrlSel).rxf.length < s.cfg.rxd →
      blockStep .shiftEnd s =
        { s.setCtl s.ctrlSel { s.ctl s.ctrlSel with rxf := (s.ctl s.ctrlSel).rxf ++ [m], shBusy := false } with
          trace := s.trace ++ [.byte s.ctrlSel (idx s.ssmask) (s.ctl s.ctrlSel).shMosi m]
          miso := s.miso.tail }) ∧
    (s.cfg.rxd ≤ (s.ctl s.ctrlSel).rxf.length →
      blockStep .shiftEnd s =
        { s.setCtl s.ctrlSel { s.ctl s.ctrlSel with shBusy := false } with
          trace := s.trace ++ [.byte s.ctrlSel (idx s.ssmask) (s.ctl s.ctrlSel).shMosi m]
          miso := s.miso.tail
          marks := s.marks ++ [.rxOverflow] })

/-! ### Invariants and whole-machine rules -/

/-- R51, R6: the invariants hold at reset, for every parameter value R6 allows. -/
def Obligations.InvariantsHoldAtReset : Prop :=
  (∀ (p : Config.Params) (a b : Bool), Params.Legal p → p.rxFull = .stall →
    Inv (State.resetWith p a b) ∧ SegInv (State.resetWith p a b) ∧ BusInv (State.resetWith p a b)) ∧
  Inv State.reset

/-- R38, R48, R71, R120, R121: every step keeps the block's invariant. -/
def Obligations.StepKeepsBlockInvariant : Prop :=
  ∀ s t : State, Inv s → step s = .next t → Inv t

/-- R109, R118, R124, R164: every step keeps the record of the running segment true: bytes go out and come in paired
and in order, what is taken is what came in, the CRC is its fold, and the dummy bursts have R109's sizes. -/
def Obligations.StepKeepsSegmentRecord : Prop :=
  ∀ s t : State, Inv s → SegInv s → step s = .next t → SegInv t

/-- R72, R141, R251: every step keeps the discipline of the bus trace. -/
def Obligations.StepKeepsBusDiscipline : Prop :=
  ∀ s t : State, Inv s → BusInv s → step s = .next t → BusInv t

/-- R120: the counters of a running segment. -/
def Obligations.CounterInvariant : Prop :=
  ∀ s : State, Inv s → SegInv s → s.phase ≠ .idle → ∃ started done : Nat,
    done = (misoBytes s.segEvents).length ∧
    s.txCount = started + (s.ctl s.ctrlSel).txf.length + (s.ctl s.ctrlSel).dummyPending ∧
    started = done + (if (s.ctl s.ctrlSel).shBusy then 1 else 0) ∧
    done = s.rxCount + (s.ctl s.ctrlSel).rxf.length ∧
    s.rxCount ≤ done ∧ done ≤ started ∧ started ≤ s.txCount ∧ s.txCount ≤ s.seg.len.toNat ∧
    (s.rxCount = s.seg.len.toNat → (s.ctl s.ctrlSel).txf = [] ∧ (s.ctl s.ctrlSel).dummyPending = 0 ∧
      (s.ctl s.ctrlSel).shBusy = false ∧ (s.ctl s.ctrlSel).rxf = [])

/-- R121: in IDLE both cores are empty and quiet, chip-select follows SS, and no step of the block is enabled. That a
turn of a step not enabled does nothing is the model's form of a turn (log 1), and that with nothing for the requester to
do the machine stays as it is, is the model's schedule where no turn is named (log 2). -/
def Obligations.IdleBlockIsQuiet : Prop :=
  ∀ s : State, Inv s → s.phase = .idle →
    (∀ c, (s.ctl c).txf = [] ∧ (s.ctl c).rxf = [] ∧ (s.ctl c).dummyPending = 0 ∧ (s.ctl c).shBusy = false ∧
      (s.ctl c).auxCs = (s.ss && decide (c = s.ctrlSel))) ∧
    (∀ b, enabled b s = false ∧ blockStep b s = s) ∧
    (s.turns = [] → s.client = [] → s.prog[s.rpc]? = none → step s = .next s)

/-- R48: a chip-select pin is low exactly where SS = 1 and it is the selected line of the selected core; so at most
one pin of all is low. -/
def Obligations.ChipSelectPins : Prop :=
  ∀ (s : State), Inv s → ∀ (c : BitVec 1) (i : Nat),
    s.csN c i = false ↔ s.ss = true ∧ c = s.ctrlSel ∧ i = idx s.ssmask

/-- R128: a ready flag, once 1, stays 1 through every step of the block and every instruction but the access it stands
for, and through every step of the machine (a requester's, the block's, or the platform's driving of INIT_DONE) in which
that access is not accepted, but for a reset, which ends the segment (R250). While it is 1 the access is accepted: no
error, no mark, the byte taken. -/
def Obligations.ReadyFlagsAreStable : Prop :=
  ∀ s : State, Inv s →
    (∀ b, s.statusWord.getLsbD 2 = true → (blockStep b s).statusWord.getLsbD 2 = true) ∧
    (∀ b, s.statusWord.getLsbD 3 = true → (blockStep b s).statusWord.getLsbD 3 = true) ∧
    (∀ (i : Instr) (t : State), exec i s = .next t → (∀ v, i ≠ .txdataW v) →
      s.statusWord.getLsbD 2 = true → t.statusWord.getLsbD 2 = true) ∧
    (∀ (i : Instr) (t : State), exec i s = .next t → i ≠ .rxdataR →
      s.statusWord.getLsbD 3 = true → t.statusWord.getLsbD 3 = true) ∧
    (∀ t : State, step s = .next t → (∀ rest, s.turns ≠ .reset :: rest) → s.statusWord.getLsbD 2 = true →
      t.statusWord.getLsbD 2 = true ∨
      ∃ b, (t.ctl t.ctrlSel).txf = (s.ctl s.ctrlSel).txf ++ [b] ∧ t.txCount = s.txCount + 1) ∧
    (∀ t : State, step s = .next t → (∀ rest, s.turns ≠ .reset :: rest) → s.statusWord.getLsbD 3 = true →
      t.statusWord.getLsbD 3 = true ∨
      ∃ b : Byte, (s.ctl s.ctrlSel).rxf = b :: (t.ctl t.ctrlSel).rxf ∧ t.rxCount = s.rxCount + 1 ∧
        t.reads = s.reads ++ [b.zeroExtend 32]) ∧
    (s.statusWord.getLsbD 2 = true → ∀ v, ∃ t, exec (.txdataW v) s = .next t ∧ t.err = s.err ∧ t.marks = s.marks ∧
      (t.ctl t.ctrlSel).txf = (s.ctl s.ctrlSel).txf ++ [v.extractLsb' 0 8]) ∧
    (s.statusWord.getLsbD 3 = true → ∃ (b : Byte) (t : State), exec .rxdataR s = .next t ∧ t.err = s.err ∧
      t.marks = s.marks ∧ (s.ctl s.ctrlSel).rxf = b :: (t.ctl t.ctrlSel).rxf ∧
      t.reads = s.reads ++ [b.zeroExtend 32])

/-- R141: the selection changes only while SS = 0 and no segment runs, in a step that is no reset. -/
def Obligations.SelectionChangesOnlyBetweenCommands : Prop :=
  ∀ s t : State, step s = .next t → (∀ rest, s.turns ≠ .reset :: rest) →
    (t.ctrlSel ≠ s.ctrlSel ∨ t.ssmask ≠ s.ssmask) → s.ss = false ∧ s.phase = .idle

/-- R6: no step changes a parameter, and what was observed stays observed: the bus trace and the values read only
grow (R66, R10). -/
def Obligations.ObservationOnlyGrows : Prop :=
  ∀ s t : State, step s = .next t →
    t.cfg = s.cfg ∧ (∃ es, t.trace = s.trace ++ es ∧ es.length ≤ 1) ∧ (∃ vs, t.reads = s.reads ++ vs ∧ vs.length ≤ 1)

/-- R117: under stall no received byte is lost: the byte that ends, the MISO byte of the event it adds to the trace,
joins the RX FIFO behind the bytes already there; and no step marks an overflow. -/
def Obligations.StallLosesNoByte : Prop :=
  (∀ s : State, Inv s → enabled .shiftEnd s = true → ∃ m : Byte,
    (blockStep .shiftEnd s).trace =
      s.trace ++ [.byte s.ctrlSel (idx s.ssmask) (s.ctl s.ctrlSel).shMosi m] ∧
    ((blockStep .shiftEnd s).ctl s.ctrlSel).rxf = (s.ctl s.ctrlSel).rxf ++ [m] ∧
    (blockStep .shiftEnd s).marks = s.marks) ∧
  (∀ s t : State, Inv s → step s = .next t → .rxOverflow ∈ t.marks → .rxOverflow ∈ s.marks)

/-- R118, R124, R164, R72: when the block ends a segment, exactly `len` bytes were exchanged in it, all of them on the
selected line; the bytes taken are all the MISO bytes in bus order; with TXP = 1 the MOSI bytes are the bytes accepted,
otherwise all are DUMMY_BYTE; the CRC is the fold of the bytes taken, or unchanged; CsHigh follows exactly where
LAST = 1. -/
def Obligations.SegmentEndsComplete : Prop :=
  ∀ (s t : State) (b : BlockStep), Inv s → SegInv s → s.phase ≠ .idle → blockStep b s = t → t.phase = .idle →
    (∀ e ∈ s.segEvents, ∃ mosi miso, e = .byte s.ctrlSel (idx s.ssmask) mosi miso) ∧
    (mosiBytes s.segEvents).length = s.seg.len.toNat ∧ (misoBytes s.segEvents).length = s.seg.len.toNat ∧
    s.hist.taken = misoBytes s.segEvents ∧
    mosiBytes s.segEvents =
      (if s.seg.txp then s.hist.fed else List.replicate s.seg.len.toNat s.cfg.dummyByte) ∧
    t.crc = (if s.seg.crcen then crcFold s.hist.crc0 (misoBytes s.segEvents) else s.hist.crc0) ∧
    t.trace = s.trace ++ (if s.seg.last then [.csHigh s.ctrlSel (idx s.ssmask)] else []) ∧
    t.ss = !s.seg.last

/-- R109: the bursts of a segment with no TX data, once all its bytes are asked for: 240 as often as it goes, then the
remainder where it is not 0. -/
def Obligations.DummyBurstSizes : Prop :=
  ∀ s : State, Inv s → SegInv s → s.phase ≠ .idle → s.seg.txp = false → s.txCount = s.seg.len.toNat →
    s.hist.bursts =
      List.replicate (s.seg.len.toNat / 240) 240 ++
        (if s.seg.len.toNat % 240 = 0 then [] else [s.seg.len.toNat % 240]) ∧
    s.hist.bursts.sum = s.seg.len.toNat

/-- R122, R123: a segment of length 0 exchanges nothing: from IDLE with INIT_DONE = 1, its acceptance and the block's
two steps give CsLow where SS was 0, CsHigh where LAST = 1, and no byte. -/
def Obligations.ZeroLengthSegment : Prop :=
  ∀ (txp rxp last crcen : Bool) (s : State), Inv s → s.phase = .idle → s.initDone s.ctrlSel = true → s.len = 0#32 →
    ∃ t, exec (.xfer txp rxp last crcen) s = .next t ∧ enabledSteps t = [.endRun] ∧
      enabledSteps (blockStep .endRun t) = [.leaveTail] ∧
      (blockStep .leaveTail (blockStep .endRun t)).phase = .idle ∧
      (blockStep .leaveTail (blockStep .endRun t)).ss = !last ∧
      (blockStep .leaveTail (blockStep .endRun t)).crc = s.crc ∧
      (blockStep .leaveTail (blockStep .endRun t)).trace =
        s.trace ++ (if s.ss then [] else [.csLow s.ctrlSel (idx s.ssmask)]) ++
          (if last then [.csHigh s.ctrlSel (idx s.ssmask)] else [])

/-- R126, R225: where the requester stops, the segment hangs: no step of the block is enabled. With TXP = RXP = 1, both
FIFOs full and the shifter idle, TXRDY is 0 and RXAVL 1; with RXP = 1 the same of a full RX FIFO whose TX path is
waiting; with TXP = 1 of an empty TX FIFO before the last byte. And in no others: a running segment of which no step is
enabled waits for an access of the requester that would be accepted. Where no step is enabled and there is nothing for
the requester to do, the machine stays as it is for ever, under the model's schedule where no turn is named (log 2). -/
def Obligations.RequesterCausedHang : Prop :=
  (∀ s : State, Inv s → s.phase = .run → (s.ctl s.ctrlSel).shBusy = false →
    (s.seg.txp = true → s.seg.rxp = true → (s.ctl s.ctrlSel).txf.length = s.cfg.txd →
      (s.ctl s.ctrlSel).rxf.length = s.cfg.rxd →
      enabledSteps s = [] ∧ s.statusWord.getLsbD 2 = false ∧ s.statusWord.getLsbD 3 = true) ∧
    (s.seg.rxp = true → (s.ctl s.ctrlSel).rxf.length = s.cfg.rxd →
      (s.seg.txp = true ∨ 0 < (s.ctl s.ctrlSel).dummyPending ∨ s.txCount = s.seg.len.toNat) → enabledSteps s = []) ∧
    (s.seg.txp = true → (s.ctl s.ctrlSel).txf = [] → (s.seg.rxp = true ∨ (s.ctl s.ctrlSel).rxf = []) →
      s.txCount < s.seg.len.toNat → enabledSteps s = []) ∧
    (enabledSteps s = [] → s.turns = [] → s.client = [] → s.prog[s.rpc]? = none →
      ∀ k, Host.Core.run Sys2Proof.core k s = .next s)) ∧
  (∀ s : State, Inv s → s.phase ≠ .idle → enabledSteps s = [] →
    s.statusWord.getLsbD 2 = true ∨ s.statusWord.getLsbD 3 = true)

/-- R125: a segment with TXP = 0 and RXP = 0 needs no requester: from its acceptance on, the block's own steps bring it
to IDLE, in at most five steps for each byte and two more, after exactly `len` exchanges of DUMMY_BYTE. The run is one
under the model's schedule where no turn is named (log 2). -/
def Obligations.DummySegmentCompletes : Prop :=
  ∀ s : State, Inv s → SegInv s → s.turns = [] → s.phase = .run → s.seg.txp = false → s.seg.rxp = false →
    ∃ (k : Nat) (t : State), k ≤ 5 * s.seg.len.toNat + 2 ∧ Host.Core.run Sys2Proof.core k s = .next t ∧
      t.phase = .idle ∧ t.seg = s.seg ∧ t.marks = s.marks ∧ t.reads = s.reads ∧ t.ss = !s.seg.last ∧
      mosiBytes (t.trace.drop s.hist.base) = List.replicate s.seg.len.toNat s.cfg.dummyByte ∧
      t.crc = (if s.seg.crcen then crcFold s.hist.crc0 (misoBytes (t.trace.drop s.hist.base)) else s.hist.crc0)

/-- R195, R118, R125: the SEG driver runs one segment to completion, from IDLE with INIT_DONE = 1 and `txbytes` of
length `n` where `tx` is a flag: no access it makes is refused, the trace grows by the frame of the segment with the
MOSI bytes of the caller (DUMMY_BYTE without `tx`), `rxbuf` holds the MISO bytes in order where `rx` is a flag, and the
CRC folds them where `crc` is; the MISO bytes are the slave's answers where the state names them (R9). The run is one
under the model's schedule where no turn is named (log 2), of the model's form of the requester (log 11). -/
def Obligations.SegDriverCompletes : Prop :=
  ∀ (s : State) (f : SegFlags) (n : Word) (tx : List Byte) (rest : List ClientOp),
    Inv s → s.turns = [] → s.phase = .idle → s.client = .seg f n tx :: rest → s.initDone s.ctrlSel = true →
    (f.tx = true → tx.length = n.toNat) →
    ∃ (k : Nat) (t : State) (xs : List (Byte × Byte)), Host.Core.run Sys2Proof.core k s = .next t ∧
      t.client = rest ∧ t.phase = .idle ∧ t.turns = [] ∧ t.ss = !f.last ∧ t.err = s.err ∧ t.marks = s.marks ∧
      t.len = n ∧ t.ctrlSel = s.ctrlSel ∧ t.ssmask = s.ssmask ∧ t.prog = s.prog ∧ t.rpc = s.rpc ∧
      xs.length = n.toNat ∧
      t.trace = s.trace ++ (if s.ss then [] else [.csLow s.ctrlSel (idx s.ssmask)]) ++
        xs.map (fun x => .byte s.ctrlSel (idx s.ssmask) x.1 x.2) ++
        (if f.last then [.csHigh s.ctrlSel (idx s.ssmask)] else []) ∧
      xs.map Prod.fst = (if f.tx then tx else List.replicate n.toNat s.cfg.dummyByte) ∧
      (f.rx = true → t.rxbuf = xs.map Prod.snd) ∧
      t.crc = (if f.crc then crcFold s.crc (xs.map Prod.snd) else s.crc) ∧
      (∀ answers later, s.miso = answers ++ later → answers.length = n.toNat →
        xs.map Prod.snd = answers ∧ t.miso = later)

/-! ### SELECT and the CRC unit -/

/-- R140: what SELECT does in each case. -/
def Obligations.SelectEffect : Prop :=
  ∀ (c : BitVec 1) (m : Byte) (s : State),
    (s.phase ≠ .idle → exec (.select c m) s = .next (raiseError .busy s)) ∧
    (s.phase = .idle → ¬ OneLine s.cfg.ncs m → exec (.select c m) s = .next (raiseError .cmd s)) ∧
    (s.phase = .idle → OneLine s.cfg.ncs m → s.ss = true → exec (.select c m) s = .next (raiseError .sel s)) ∧
    (s.phase = .idle → OneLine s.cfg.ncs m → s.ss = false →
      exec (.select c m) s = .next { s with ctrlSel := c, ssmask := m })

/-- R162, R163: CRCINIT and CRCFEED in IDLE, and their refusal while a segment runs; the same of the words an
assembler writes to CMD; and ERR_CMD for a word of theirs with a must-be-zero bit set. -/
def Obligations.CrcCommandsEffect : Prop :=
  ∀ (d : Byte) (s : State),
    (s.phase = .idle →
      exec .crcinit s = .next { s with crc := 0xFFFF#16 } ∧
      exec (.crcfeed d) s = .next { s with crc := crc16Upd s.crc d } ∧
      exec (.cmdW 0x00000003#32) s = .next { s with crc := 0xFFFF#16 } ∧
      exec (.cmdW (crcfeedWord d)) s = .next { s with crc := crc16Upd s.crc d }) ∧
    (s.phase ≠ .idle →
      exec .crcinit s = .next (raiseError .busy s) ∧ exec (.crcfeed d) s = .next (raiseError .busy s)) ∧
    (∀ w : Word, s.phase = .idle → opOf w = 0x3 → w.extractLsb' 4 28 ≠ 0#28 →
      exec (.cmdW w) s = .next (raiseError .cmd s)) ∧
    (∀ w : Word, s.phase = .idle → opOf w = 0x4 → (w.extractLsb' 16 16 ≠ 0#16 ∨ w.extractLsb' 4 4 ≠ 0#4) →
      exec (.cmdW w) s = .next (raiseError .cmd s))

/-- R160: folding a byte is eight steps of long division of the message bits, most significant first, by
x^16 + x^12 + x^5 + 1. -/
def Obligations.CrcIsBitSerialDivision : Prop :=
  ∀ (c : BitVec 16) (b : Byte),
    crc16Upd c b =
      [b.getLsbD 7, b.getLsbD 6, b.getLsbD 5, b.getLsbD 4, b.getLsbD 3, b.getLsbD 2, b.getLsbD 1, b.getLsbD 0].foldl
        (fun (r : BitVec 16) (bit : Bool) => if Bool.xor (r.getLsbD 15) bit then (r <<< 1) ^^^ 0x1021#16 else r <<< 1) c

/-- R167: the residue: appending a string's CRC, most significant byte first, makes its CRC 0. -/
def Obligations.CrcResidueIsZero : Prop :=
  ∀ bytes : List Byte,
    crc16 (bytes ++ [(crc16 bytes).extractLsb' 8 8, (crc16 bytes).extractLsb' 0 8]) = 0#16

/-- R161, R168: CRCINIT and then one CRCFEED for each byte of a string leave its CRC, and a string may be folded in two
pieces. -/
def Obligations.CrcFeedsFoldTheString : Prop :=
  (∀ (bytes : List Byte) (s : State), s.phase = .idle →
    bytes.foldl
      (fun o b => match o with | .next u => exec (.crcfeed b) u | .fault x => .fault x | .refused x => .refused x)
      (exec .crcinit s) = .next { s with crc := crc16 bytes }) ∧
  (∀ one two : List Byte, crcFold (crc16 one) two = crc16 (one ++ two)) ∧ crc16 [] = 0xFFFF#16

/-! ### SPI-NOR sequences -/

/-- R182, R183, R184, R185, R186, R187, R193: what each SPI-NOR command sets the requester to do; and R92, R193: the
same of the statements POLL, TX, RX and CUSTOM, with what a turn of a `WR`, an `RD` and a POLL does (the model's form of
the requester: log 11). -/
def Obligations.SpiNorSequences : Prop :=
  (∀ (s : State) (o3 : BitVec 24) (off n : Word) (src : List Byte),
    exec (.read o3 n) s = .next { s with client :=
      [.seg ⟨true, false, false, false⟩ 4#32 (0x03#8 :: bytes3 o3), .seg ⟨false, true, true, false⟩ n []] ++ s.client } ∧
    exec (.read4 off n) s = .next { s with client :=
      [.seg ⟨true, false, false, false⟩ 5#32 (0x13#8 :: bytes4 off), .seg ⟨false, true, true, false⟩ n []] ++ s.client } ∧
    exec (.pp o3 src) s = .next { s with client :=
      [.seg ⟨true, false, false, false⟩ 4#32 (0x02#8 :: bytes3 o3),
        .seg ⟨true, false, true, false⟩ (BitVec.ofNat 32 src.length) src, .waitIdle] ++ s.client } ∧
    exec (.pp4 off src) s = .next { s with client :=
      [.seg ⟨true, false, false, false⟩ 5#32 (0x12#8 :: bytes4 off),
        .seg ⟨true, false, true, false⟩ (BitVec.ofNat 32 src.length) src, .waitIdle] ++ s.client } ∧
    exec (.se o3) s = .next { s with client :=
      [.seg ⟨true, false, true, false⟩ 4#32 (0xD8#8 :: bytes3 o3), .waitIdle] ++ s.client } ∧
    exec (.se4 off) s = .next { s with client :=
      [.seg ⟨true, false, true, false⟩ 5#32 (0xDC#8 :: bytes4 off), .waitIdle] ++ s.client } ∧
    exec .wren s = .next { s with client := [.seg ⟨true, false, true, false⟩ 1#32 [0x06#8]] ++ s.client } ∧
    exec .wrdi s = .next { s with client := [.seg ⟨true, false, true, false⟩ 1#32 [0x04#8]] ++ s.client } ∧
    exec .rdsr1 s = .next { s with client :=
      [.seg ⟨true, false, false, false⟩ 1#32 [0x05#8], .seg ⟨false, true, true, false⟩ 1#32 []] ++ s.client } ∧
    exec (.rdid n) s = .next { s with client :=
      (if n = 0#32 then [.seg ⟨true, false, true, false⟩ 1#32 [0x9F#8]]
        else [.seg ⟨true, false, false, false⟩ 1#32 [0x9F#8], .seg ⟨false, true, true, false⟩ n []]) ++ s.client }) ∧
  (∀ (s : State) (off : Nat) (mask val n : Word) (b : Byte) (tx : List Byte),
    runPseudo (.poll off mask val) s = .next { s with client := .poll off mask val :: s.client } ∧
    runPseudo (.tx b) s = .next { s with client :=
      [.poll 0x08 0x4#32 0x4#32, .write 0x0C (b.zeroExtend 32)] ++ s.client } ∧
    runPseudo .rx s = .next { s with client := [.poll 0x08 0x8#32 0x8#32, .read 0x10] ++ s.client } ∧
    runPseudo (.custom tx n) s = .next { s with client :=
      (if tx = [] then []
        else [.seg ⟨true, false, decide (n = 0#32), false⟩ (BitVec.ofNat 32 tx.length) tx]) ++
      (if n = 0#32 then [] else [.seg ⟨false, true, true, false⟩ n []]) ++ s.client }) ∧
  (∀ (s t : State) (off : Nat) (mask val v : Word) (rest : List ClientOp),
    requesterTurn { s with client := .write off v :: rest } =
      runRequest (.write off 4 v) { s with client := rest } ∧
    requesterTurn { s with client := .read off :: rest } = runRequest (.read off 4) { s with client := rest } ∧
    (runRequest (.read off 4) { s with client := rest } = .next t →
      requesterTurn { s with client := .poll off mask val :: rest } =
        .next (if t.lastRead &&& mask = val then t else { t with client := .poll off mask val :: t.client })))

/-- R183, R184: WREN and WRDI, run from a requester's program to their end, as requests and as pseudo-instructions: the
bus trace grows by exactly CsLow (not where SS was 1 already), the one byte, CsHigh. The run is one under the model's
schedule where no turn is named (log 2). -/
def Obligations.WriteEnableFrame : Prop :=
  ∀ (s : State) (st : Stmt) (op : Byte),
    (op = 0x06#8 ∧ (st = .request (.frame [op]) ∨ st = .pseudo .flashWren)) ∨
      (op = 0x04#8 ∧ (st = .request (.frame [op]) ∨ st = .pseudo .flashWrdi)) →
    Inv s → s.turns = [] → s.client = [] → s.phase = .idle → s.initDone s.ctrlSel = true →
    s.prog[s.rpc]? = some st →
    ∃ (k : Nat) (t : State) (m : Byte), Host.Core.run Sys2Proof.core k s = .next t ∧ t.client = [] ∧
      t.rpc = s.rpc + 1 ∧ t.phase = .idle ∧ t.ss = false ∧ t.err = s.err ∧ t.marks = s.marks ∧ t.crc = s.crc ∧
      t.trace = s.trace ++ busFrame s.ss s.ctrlSel (idx s.ssmask) [(op, m)]

/-- R182, R185, R193: FLASH_READ, READ and READ4, FLASH_RDSR1 and RDSR1, RDID and CUSTOM, run from a requester's program
to their end: CsLow (not where SS was 1 already), the command's bytes and then DUMMY_BYTE for each byte read, CsHigh; the
receive buffer holds the bytes that came in after the command's, and the CRC is untouched. The run is one under the
model's schedule where no turn is named (log 2). -/
def Obligations.FlashReadFrame : Prop :=
  ∀ (s : State) (st : Stmt) (h : List Byte) (n : Word), SendsThenReads st h n →
    Inv s → s.turns = [] → s.client = [] → s.phase = .idle → s.initDone s.ctrlSel = true →
    s.prog[s.rpc]? = some st →
    ∃ (k : Nat) (t : State) (xs : List (Byte × Byte)), Host.Core.run Sys2Proof.core k s = .next t ∧ t.client = [] ∧
      t.rpc = s.rpc + 1 ∧ t.phase = .idle ∧ t.ss = false ∧ t.err = s.err ∧ t.marks = s.marks ∧ t.crc = s.crc ∧
      xs.map Prod.fst = h ++ List.replicate n.toNat s.cfg.dummyByte ∧
      (n ≠ 0#32 → t.rxbuf = (xs.map Prod.snd).drop h.length) ∧
      (∀ off, st = .pseudo (.flashRead n off) → t.rxbuf = (xs.map Prod.snd).drop (abytes off + 1)) ∧
      t.trace = s.trace ++ busFrame s.ss s.ctrlSel (idx s.ssmask) xs ∧
      (∀ answers later, s.miso = answers ++ later → answers.length = h.length + n.toNat →
        xs.map Prod.snd = answers ∧ t.miso = later)

/-- R191: READCRC over any range it is not refused for, run from a requester's program to its end over a slave that
answers each READ at offset `a` with `F a`, `F (a + 1)`, … and each header with anything, returns the CRC of the range;
the bus carries one READ frame for each chunk of 1024 bytes, and none where `size` is 0 (R192). The run is one under the
model's schedule where no turn is named (log 2). -/
def Obligations.ReadcrcReturnsTheCrc : Prop :=
  ∀ (s : State) (off size : Word) (F : Nat → Byte) (junk : Nat → List Byte) (later : List Byte),
    Inv s → s.turns = [] → s.client = [] → s.phase = .idle → s.initDone s.ctrlSel = true →
    s.prog[s.rpc]? = some (.pseudo (.readcrc off size)) → off.toNat + size.toNat ≤ 2 ^ 32 →
    (∀ j, (junk j).length = abytes (chunkOffset off j) + 1) →
    s.miso = (List.range (chunkCount size.toNat)).flatMap
      (fun j => (chunkExchanges s.cfg.dummyByte F junk off size.toNat j).map Prod.snd) ++ later →
    ∃ (k : Nat) (t : State), Host.Core.run Sys2Proof.core k s = .next t ∧ t.client = [] ∧ t.rpc = s.rpc + 1 ∧
      t.phase = .idle ∧ t.ss = (s.ss && decide (size = 0#32)) ∧ t.err = s.err ∧ t.marks = s.marks ∧ t.miso = later ∧
      t.crc = crc16 ((List.range size.toNat).map fun i => F (off.toNat + i)) ∧
      t.reads.getLast? =
        some ((crc16 ((List.range size.toNat).map fun i => F (off.toNat + i))).zeroExtend 32) ∧
      t.trace = s.trace ++ (List.range (chunkCount size.toNat)).flatMap fun j =>
        busFrame (s.ss && decide (j = 0)) s.ctrlSel (idx s.ssmask)
          (chunkExchanges s.cfg.dummyByte F junk off size.toNat j)

/-- R186, R187, R188: FLASH_PROGRAM, PP and PP4, FLASH_ERASE, SE and SE4, run from a requester's program to their end
over a slave whose status byte shows it busy for some polls and then idle: the command's frame (CsLow not where SS was 1
already), and one RDSR1 frame for each poll. The run is one under the model's schedule where no turn is named (log 2). -/
def Obligations.ProgramEraseFrames : Prop :=
  ∀ (s : State) (st : Stmt) (cmd answers : List Byte) (busy : List (Byte × Byte)) (idle : Byte × Byte)
      (later : List Byte), ProgramsOrErases st cmd →
    Inv s → s.turns = [] → s.client = [] → s.phase = .idle → s.initDone s.ctrlSel = true →
    s.prog[s.rpc]? = some st → answers.length = cmd.length →
    (∀ p ∈ busy, p.2.getLsbD 0 = true) → idle.2.getLsbD 0 = false →
    s.miso = answers ++ (busy ++ [idle]).flatMap (fun p => [p.1, p.2]) ++ later →
    ∃ (k : Nat) (t : State), Host.Core.run Sys2Proof.core k s = .next t ∧ t.client = [] ∧ t.rpc = s.rpc + 1 ∧
      t.phase = .idle ∧ t.ss = false ∧ t.err = s.err ∧ t.marks = s.marks ∧ t.crc = s.crc ∧ t.miso = later ∧
      t.rxbuf = [idle.2] ∧
      t.trace = s.trace ++ busFrame s.ss s.ctrlSel (idx s.ssmask) (cmd.zip answers) ++
        (busy ++ [idle]).flatMap fun p =>
          busFrame false s.ctrlSel (idx s.ssmask) [(0x05#8, p.1), (s.cfg.dummyByte, p.2)]

/-- R188: FLASH_WAIT_IDLE starts by reading the status register once, whatever stands in the receive buffer, and goes
round again exactly while bit 0 of the byte read is 1. Where no byte came the byte tested is a free one (the model's:
log 17). -/
def Obligations.WaitIdleLoops : Prop :=
  ∀ (s : State) (rest : List ClientOp),
    requesterTurn { s with client := .waitIdle :: rest } =
      .next { s with client := [.seg ⟨true, false, false, false⟩ 1#32 [0x05#8],
        .seg ⟨false, true, true, false⟩ 1#32 [], .waitTest] ++ rest } ∧
    (∀ (x : Byte) (xs : List Byte), s.rxbuf = x :: xs →
      requesterTurn { s with client := .waitTest :: rest } =
        .next { s with client := (if x &&& 0x01#8 ≠ 0#8 then [.waitIdle] else []) ++ rest }) ∧
    (s.rxbuf = [] → ∃ x : Byte,
      requesterTurn { s with client := .waitTest :: rest } =
        .next { s with
          freeCtr := s.freeCtr + 1, client := (if x &&& 0x01#8 ≠ 0#8 then [.waitIdle] else []) ++ rest })

/-- R190, R192: READCRC: the range it is refused outside of, its start, each chunk, and its end. -/
def Obligations.ReadcrcSequence : Prop :=
  ∀ (s : State) (off size : Word) (done : Nat) (rest : List ClientOp),
    (off.toNat + size.toNat ≤ 2 ^ 32 →
      runPseudo (.readcrc off size) s =
        .next { s with client := [.write 0x00 0x00000003#32, .crcLoop off size.toNat 0] ++ s.client }) ∧
    (2 ^ 32 < off.toNat + size.toNat → runPseudo (.readcrc off size) s = .refused .readcrcRange) ∧
    (done = size.toNat →
      requesterTurn { s with client := .crcLoop off size.toNat done :: rest } =
        .next { s with client := .read 0x18 :: rest }) ∧
    (done < size.toNat →
      requesterTurn { s with client := .crcLoop off size.toNat done :: rest } =
        .next { s with client :=
          [.seg ⟨true, false, false, false⟩
              (BitVec.ofNat 32 (hdr 0x03#8 0x13#8 (BitVec.ofNat 32 (off.toNat + done))).length)
              (hdr 0x03#8 0x13#8 (BitVec.ofNat 32 (off.toNat + done))),
            .seg ⟨false, false, true, true⟩ (BitVec.ofNat 32 (min 1024 (size.toNat - done))) [],
            .crcLoop off size.toNat (done + min 1024 (size.toNat - done))] ++ rest })

/-! ### The platform -/

/-- R250, R251: a reset step: a low chip-select goes high first, every element takes its reset value in both cores, and
INIT_DONE is not touched. That the requester's program and what it was doing, its receive buffer, the schedule, the
slave's answers, the parameters and the observation stay as they are is the model's choice (log 19). -/
def Obligations.PlatformResetEffect : Prop :=
  ∀ (s : State) (rest : List Turn), s.turns = .reset :: rest →
    step s = .next { State.resetWith s.cfg s.initDone0 s.initDone1 with
      trace := s.trace ++ (if s.ss then [.csHigh s.ctrlSel (idx s.ssmask)] else [])
      reads := s.reads, marks := s.marks, miso := s.miso, freeCtr := s.freeCtr, turns := rest
      prog := s.prog, rpc := s.rpc, client := s.client, rxbuf := s.rxbuf }

/-- R252: what the requester sees immediately after reset. -/
def Obligations.ReadsAfterReset : Prop :=
  ∀ (p : Config.Params) (a b : Bool),
    (State.resetWith p a b).statusWord = (if a then 0x00000020#32 else 0x00000000#32) ∧
    (State.resetWith p a b).selWord = 0x00000100#32 ∧ (State.resetWith p a b).len = 0x00000000#32 ∧
    (State.resetWith p a b).crcWord = 0x0000FFFF#32 ∧
    exec .rxdataR (State.resetWith p a b) = .next { State.resetWith p a b with
      err := 0b001000#6, marks := [.error .rxr], reads := [0#32] } ∧
    enabledSteps (State.resetWith p a b) = []

/-- R33, R261: the platform drives INIT_DONE[c]; a fall while a segment runs on core c or while SS = 1 with core c
selected is InitLost, and any other change only sets the input. -/
def Obligations.InitDoneInput : Prop :=
  ∀ (s : State) (c : BitVec 1) (v : Bool) (rest : List Turn), s.turns = .setInit c v :: rest →
    (c = s.ctrlSel → (s.phase ≠ .idle ∨ s.ss = true) → s.initDone c = true → v = false →
      step s = .fault .initLost) ∧
    (¬ (c = s.ctrlSel ∧ (s.phase ≠ .idle ∨ s.ss = true) ∧ s.initDone c = true ∧ v = false) →
      ∃ t, step s = .next t ∧ t.initDone c = v ∧ (∀ d, d ≠ c → t.initDone d = s.initDone d) ∧
        t = { s with turns := rest, initDone0 := t.initDone0, initDone1 := t.initDone1 })
end

