-- ==== Sys2Proof/Laws/State.lean ====
section
/-! SUPPORT. The fields of a state after each of the basic updates: one lemma per field per update. -/

namespace Sys2Proof.Machine

/-! ### setCtl -/

@[simp] theorem State.setCtl_len (c : BitVec 1) (k : Ctl) (s : State) : (s.setCtl c k).len = s.len := rfl
@[simp] theorem State.setCtl_err (c : BitVec 1) (k : Ctl) (s : State) : (s.setCtl c k).err = s.err := rfl
@[simp] theorem State.setCtl_ctrlSel (c : BitVec 1) (k : Ctl) (s : State) : (s.setCtl c k).ctrlSel = s.ctrlSel := rfl
@[simp] theorem State.setCtl_ssmask (c : BitVec 1) (k : Ctl) (s : State) : (s.setCtl c k).ssmask = s.ssmask := rfl
@[simp] theorem State.setCtl_ss (c : BitVec 1) (k : Ctl) (s : State) : (s.setCtl c k).ss = s.ss := rfl
@[simp] theorem State.setCtl_phase (c : BitVec 1) (k : Ctl) (s : State) : (s.setCtl c k).phase = s.phase := rfl
@[simp] theorem State.setCtl_seg (c : BitVec 1) (k : Ctl) (s : State) : (s.setCtl c k).seg = s.seg := rfl
@[simp] theorem State.setCtl_txCount (c : BitVec 1) (k : Ctl) (s : State) : (s.setCtl c k).txCount = s.txCount := rfl
@[simp] theorem State.setCtl_rxCount (c : BitVec 1) (k : Ctl) (s : State) : (s.setCtl c k).rxCount = s.rxCount := rfl
@[simp] theorem State.setCtl_core0 (c : BitVec 1) (k : Ctl) (s : State) : (s.setCtl c k).core0 = if c = 0#1 then k else s.core0 := rfl
@[simp] theorem State.setCtl_core1 (c : BitVec 1) (k : Ctl) (s : State) : (s.setCtl c k).core1 = if c = 0#1 then s.core1 else k := rfl
@[simp] theorem State.setCtl_crc (c : BitVec 1) (k : Ctl) (s : State) : (s.setCtl c k).crc = s.crc := rfl
@[simp] theorem State.setCtl_initDone0 (c : BitVec 1) (k : Ctl) (s : State) : (s.setCtl c k).initDone0 = s.initDone0 := rfl
@[simp] theorem State.setCtl_initDone1 (c : BitVec 1) (k : Ctl) (s : State) : (s.setCtl c k).initDone1 = s.initDone1 := rfl
@[simp] theorem State.setCtl_cfg (c : BitVec 1) (k : Ctl) (s : State) : (s.setCtl c k).cfg = s.cfg := rfl
@[simp] theorem State.setCtl_trace (c : BitVec 1) (k : Ctl) (s : State) : (s.setCtl c k).trace = s.trace := rfl
@[simp] theorem State.setCtl_reads (c : BitVec 1) (k : Ctl) (s : State) : (s.setCtl c k).reads = s.reads := rfl
@[simp] theorem State.setCtl_marks (c : BitVec 1) (k : Ctl) (s : State) : (s.setCtl c k).marks = s.marks := rfl
@[simp] theorem State.setCtl_hist (c : BitVec 1) (k : Ctl) (s : State) : (s.setCtl c k).hist = s.hist := rfl
@[simp] theorem State.setCtl_miso (c : BitVec 1) (k : Ctl) (s : State) : (s.setCtl c k).miso = s.miso := rfl
@[simp] theorem State.setCtl_freeCtr (c : BitVec 1) (k : Ctl) (s : State) : (s.setCtl c k).freeCtr = s.freeCtr := rfl
@[simp] theorem State.setCtl_turns (c : BitVec 1) (k : Ctl) (s : State) : (s.setCtl c k).turns = s.turns := rfl
@[simp] theorem State.setCtl_prog (c : BitVec 1) (k : Ctl) (s : State) : (s.setCtl c k).prog = s.prog := rfl
@[simp] theorem State.setCtl_rpc (c : BitVec 1) (k : Ctl) (s : State) : (s.setCtl c k).rpc = s.rpc := rfl
@[simp] theorem State.setCtl_client (c : BitVec 1) (k : Ctl) (s : State) : (s.setCtl c k).client = s.client := rfl
@[simp] theorem State.setCtl_rxbuf (c : BitVec 1) (k : Ctl) (s : State) : (s.setCtl c k).rxbuf = s.rxbuf := rfl
@[simp] theorem State.setCtl_line (c : BitVec 1) (k : Ctl) (s : State) : (s.setCtl c k).line = s.line := rfl
@[simp] theorem State.setCtl_initDone (c : BitVec 1) (k : Ctl) (s : State) (d : BitVec 1) : (s.setCtl c k).initDone d = s.initDone d := rfl

/-! ### setSel -/

@[simp] theorem State.setSel_len (k : Ctl) (s : State) : (s.setSel k).len = s.len := rfl
@[simp] theorem State.setSel_err (k : Ctl) (s : State) : (s.setSel k).err = s.err := rfl
@[simp] theorem State.setSel_ctrlSel (k : Ctl) (s : State) : (s.setSel k).ctrlSel = s.ctrlSel := rfl
@[simp] theorem State.setSel_ssmask (k : Ctl) (s : State) : (s.setSel k).ssmask = s.ssmask := rfl
@[simp] theorem State.setSel_ss (k : Ctl) (s : State) : (s.setSel k).ss = s.ss := rfl
@[simp] theorem State.setSel_phase (k : Ctl) (s : State) : (s.setSel k).phase = s.phase := rfl
@[simp] theorem State.setSel_seg (k : Ctl) (s : State) : (s.setSel k).seg = s.seg := rfl
@[simp] theorem State.setSel_txCount (k : Ctl) (s : State) : (s.setSel k).txCount = s.txCount := rfl
@[simp] theorem State.setSel_rxCount (k : Ctl) (s : State) : (s.setSel k).rxCount = s.rxCount := rfl
@[simp] theorem State.setSel_core0 (k : Ctl) (s : State) : (s.setSel k).core0 = if s.ctrlSel = 0#1 then k else s.core0 := rfl
@[simp] theorem State.setSel_core1 (k : Ctl) (s : State) : (s.setSel k).core1 = if s.ctrlSel = 0#1 then s.core1 else k := rfl
@[simp] theorem State.setSel_crc (k : Ctl) (s : State) : (s.setSel k).crc = s.crc := rfl
@[simp] theorem State.setSel_initDone0 (k : Ctl) (s : State) : (s.setSel k).initDone0 = s.initDone0 := rfl
@[simp] theorem State.setSel_initDone1 (k : Ctl) (s : State) : (s.setSel k).initDone1 = s.initDone1 := rfl
@[simp] theorem State.setSel_cfg (k : Ctl) (s : State) : (s.setSel k).cfg = s.cfg := rfl
@[simp] theorem State.setSel_trace (k : Ctl) (s : State) : (s.setSel k).trace = s.trace := rfl
@[simp] theorem State.setSel_reads (k : Ctl) (s : State) : (s.setSel k).reads = s.reads := rfl
@[simp] theorem State.setSel_marks (k : Ctl) (s : State) : (s.setSel k).marks = s.marks := rfl
@[simp] theorem State.setSel_hist (k : Ctl) (s : State) : (s.setSel k).hist = s.hist := rfl
@[simp] theorem State.setSel_miso (k : Ctl) (s : State) : (s.setSel k).miso = s.miso := rfl
@[simp] theorem State.setSel_freeCtr (k : Ctl) (s : State) : (s.setSel k).freeCtr = s.freeCtr := rfl
@[simp] theorem State.setSel_turns (k : Ctl) (s : State) : (s.setSel k).turns = s.turns := rfl
@[simp] theorem State.setSel_prog (k : Ctl) (s : State) : (s.setSel k).prog = s.prog := rfl
@[simp] theorem State.setSel_rpc (k : Ctl) (s : State) : (s.setSel k).rpc = s.rpc := rfl
@[simp] theorem State.setSel_client (k : Ctl) (s : State) : (s.setSel k).client = s.client := rfl
@[simp] theorem State.setSel_rxbuf (k : Ctl) (s : State) : (s.setSel k).rxbuf = s.rxbuf := rfl
@[simp] theorem State.setSel_line (k : Ctl) (s : State) : (s.setSel k).line = s.line := rfl
@[simp] theorem State.setSel_initDone (k : Ctl) (s : State) (d : BitVec 1) : (s.setSel k).initDone d = s.initDone d := rfl

/-! ### raiseError -/

@[simp] theorem raiseError_len (k : ErrKind) (s : State) : (raiseError k s).len = s.len := rfl
@[simp] theorem raiseError_err (k : ErrKind) (s : State) : (raiseError k s).err = s.err ||| k.bit := rfl
@[simp] theorem raiseError_ctrlSel (k : ErrKind) (s : State) : (raiseError k s).ctrlSel = s.ctrlSel := rfl
@[simp] theorem raiseError_ssmask (k : ErrKind) (s : State) : (raiseError k s).ssmask = s.ssmask := rfl
@[simp] theorem raiseError_ss (k : ErrKind) (s : State) : (raiseError k s).ss = s.ss := rfl
@[simp] theorem raiseError_phase (k : ErrKind) (s : State) : (raiseError k s).phase = s.phase := rfl
@[simp] theorem raiseError_seg (k : ErrKind) (s : State) : (raiseError k s).seg = s.seg := rfl
@[simp] theorem raiseError_txCount (k : ErrKind) (s : State) : (raiseError k s).txCount = s.txCount := rfl
@[simp] theorem raiseError_rxCount (k : ErrKind) (s : State) : (raiseError k s).rxCount = s.rxCount := rfl
@[simp] theorem raiseError_core0 (k : ErrKind) (s : State) : (raiseError k s).core0 = s.core0 := rfl
@[simp] theorem raiseError_core1 (k : ErrKind) (s : State) : (raiseError k s).core1 = s.core1 := rfl
@[simp] theorem raiseError_crc (k : ErrKind) (s : State) : (raiseError k s).crc = s.crc := rfl
@[simp] theorem raiseError_initDone0 (k : ErrKind) (s : State) : (raiseError k s).initDone0 = s.initDone0 := rfl
@[simp] theorem raiseError_initDone1 (k : ErrKind) (s : State) : (raiseError k s).initDone1 = s.initDone1 := rfl
@[simp] theorem raiseError_cfg (k : ErrKind) (s : State) : (raiseError k s).cfg = s.cfg := rfl
@[simp] theorem raiseError_trace (k : ErrKind) (s : State) : (raiseError k s).trace = s.trace := rfl
@[simp] theorem raiseError_reads (k : ErrKind) (s : State) : (raiseError k s).reads = s.reads := rfl
@[simp] theorem raiseError_marks (k : ErrKind) (s : State) : (raiseError k s).marks = s.marks ++ [.error k] := rfl
@[simp] theorem raiseError_hist (k : ErrKind) (s : State) : (raiseError k s).hist = s.hist := rfl
@[simp] theorem raiseError_miso (k : ErrKind) (s : State) : (raiseError k s).miso = s.miso := rfl
@[simp] theorem raiseError_freeCtr (k : ErrKind) (s : State) : (raiseError k s).freeCtr = s.freeCtr := rfl
@[simp] theorem raiseError_turns (k : ErrKind) (s : State) : (raiseError k s).turns = s.turns := rfl
@[simp] theorem raiseError_prog (k : ErrKind) (s : State) : (raiseError k s).prog = s.prog := rfl
@[simp] theorem raiseError_rpc (k : ErrKind) (s : State) : (raiseError k s).rpc = s.rpc := rfl
@[simp] theorem raiseError_client (k : ErrKind) (s : State) : (raiseError k s).client = s.client := rfl
@[simp] theorem raiseError_rxbuf (k : ErrKind) (s : State) : (raiseError k s).rxbuf = s.rxbuf := rfl
@[simp] theorem raiseError_sel (k : ErrKind) (s : State) : (raiseError k s).sel = s.sel := rfl
@[simp] theorem raiseError_ctl (k : ErrKind) (s : State) (d : BitVec 1) : (raiseError k s).ctl d = s.ctl d := rfl
@[simp] theorem raiseError_line (k : ErrKind) (s : State) : (raiseError k s).line = s.line := rfl
@[simp] theorem raiseError_initDone (k : ErrKind) (s : State) (d : BitVec 1) : (raiseError k s).initDone d = s.initDone d := rfl

/-! ### clearErrors -/

@[simp] theorem clearErrors_len (v : Word) (s : State) : (clearErrors v s).len = s.len := rfl
@[simp] theorem clearErrors_err (v : Word) (s : State) : (clearErrors v s).err = s.err &&& ~~~ v.extractLsb' 8 6 := rfl
@[simp] theorem clearErrors_ctrlSel (v : Word) (s : State) : (clearErrors v s).ctrlSel = s.ctrlSel := rfl
@[simp] theorem clearErrors_ssmask (v : Word) (s : State) : (clearErrors v s).ssmask = s.ssmask := rfl
@[simp] theorem clearErrors_ss (v : Word) (s : State) : (clearErrors v s).ss = s.ss := rfl
@[simp] theorem clearErrors_phase (v : Word) (s : State) : (clearErrors v s).phase = s.phase := rfl
@[simp] theorem clearErrors_seg (v : Word) (s : State) : (clearErrors v s).seg = s.seg := rfl
@[simp] theorem clearErrors_txCount (v : Word) (s : State) : (clearErrors v s).txCount = s.txCount := rfl
@[simp] theorem clearErrors_rxCount (v : Word) (s : State) : (clearErrors v s).rxCount = s.rxCount := rfl
@[simp] theorem clearErrors_core0 (v : Word) (s : State) : (clearErrors v s).core0 = s.core0 := rfl
@[simp] theorem clearErrors_core1 (v : Word) (s : State) : (clearErrors v s).core1 = s.core1 := rfl
@[simp] theorem clearErrors_crc (v : Word) (s : State) : (clearErrors v s).crc = s.crc := rfl
@[simp] theorem clearErrors_initDone0 (v : Word) (s : State) : (clearErrors v s).initDone0 = s.initDone0 := rfl
@[simp] theorem clearErrors_initDone1 (v : Word) (s : State) : (clearErrors v s).initDone1 = s.initDone1 := rfl
@[simp] theorem clearErrors_cfg (v : Word) (s : State) : (clearErrors v s).cfg = s.cfg := rfl
@[simp] theorem clearErrors_trace (v : Word) (s : State) : (clearErrors v s).trace = s.trace := rfl
@[simp] theorem clearErrors_reads (v : Word) (s : State) : (clearErrors v s).reads = s.reads := rfl
@[simp] theorem clearErrors_marks (v : Word) (s : State) : (clearErrors v s).marks = s.marks := rfl
@[simp] theorem clearErrors_hist (v : Word) (s : State) : (clearErrors v s).hist = s.hist := rfl
@[simp] theorem clearErrors_miso (v : Word) (s : State) : (clearErrors v s).miso = s.miso := rfl
@[simp] theorem clearErrors_freeCtr (v : Word) (s : State) : (clearErrors v s).freeCtr = s.freeCtr := rfl
@[simp] theorem clearErrors_turns (v : Word) (s : State) : (clearErrors v s).turns = s.turns := rfl
@[simp] theorem clearErrors_prog (v : Word) (s : State) : (clearErrors v s).prog = s.prog := rfl
@[simp] theorem clearErrors_rpc (v : Word) (s : State) : (clearErrors v s).rpc = s.rpc := rfl
@[simp] theorem clearErrors_client (v : Word) (s : State) : (clearErrors v s).client = s.client := rfl
@[simp] theorem clearErrors_rxbuf (v : Word) (s : State) : (clearErrors v s).rxbuf = s.rxbuf := rfl
@[simp] theorem clearErrors_sel (v : Word) (s : State) : (clearErrors v s).sel = s.sel := rfl
@[simp] theorem clearErrors_ctl (v : Word) (s : State) (d : BitVec 1) : (clearErrors v s).ctl d = s.ctl d := rfl
@[simp] theorem clearErrors_line (v : Word) (s : State) : (clearErrors v s).line = s.line := rfl
@[simp] theorem clearErrors_initDone (v : Word) (s : State) (d : BitVec 1) : (clearErrors v s).initDone d = s.initDone d := rfl

/-! ### returnRead -/

@[simp] theorem returnRead_len (v : Word) (s : State) : (returnRead v s).len = s.len := rfl
@[simp] theorem returnRead_err (v : Word) (s : State) : (returnRead v s).err = s.err := rfl
@[simp] theorem returnRead_ctrlSel (v : Word) (s : State) : (returnRead v s).ctrlSel = s.ctrlSel := rfl
@[simp] theorem returnRead_ssmask (v : Word) (s : State) : (returnRead v s).ssmask = s.ssmask := rfl
@[simp] theorem returnRead_ss (v : Word) (s : State) : (returnRead v s).ss = s.ss := rfl
@[simp] theorem returnRead_phase (v : Word) (s : State) : (returnRead v s).phase = s.phase := rfl
@[simp] theorem returnRead_seg (v : Word) (s : State) : (returnRead v s).seg = s.seg := rfl
@[simp] theorem returnRead_txCount (v : Word) (s : State) : (returnRead v s).txCount = s.txCount := rfl
@[simp] theorem returnRead_rxCount (v : Word) (s : State) : (returnRead v s).rxCount = s.rxCount := rfl
@[simp] theorem returnRead_core0 (v : Word) (s : State) : (returnRead v s).core0 = s.core0 := rfl
@[simp] theorem returnRead_core1 (v : Word) (s : State) : (returnRead v s).core1 = s.core1 := rfl
@[simp] theorem returnRead_crc (v : Word) (s : State) : (returnRead v s).crc = s.crc := rfl
@[simp] theorem returnRead_initDone0 (v : Word) (s : State) : (returnRead v s).initDone0 = s.initDone0 := rfl
@[simp] theorem returnRead_initDone1 (v : Word) (s : State) : (returnRead v s).initDone1 = s.initDone1 := rfl
@[simp] theorem returnRead_cfg (v : Word) (s : State) : (returnRead v s).cfg = s.cfg := rfl
@[simp] theorem returnRead_trace (v : Word) (s : State) : (returnRead v s).trace = s.trace := rfl
@[simp] theorem returnRead_reads (v : Word) (s : State) : (returnRead v s).reads = s.reads ++ [v] := rfl
@[simp] theorem returnRead_marks (v : Word) (s : State) : (returnRead v s).marks = s.marks := rfl
@[simp] theorem returnRead_hist (v : Word) (s : State) : (returnRead v s).hist = s.hist := rfl
@[simp] theorem returnRead_miso (v : Word) (s : State) : (returnRead v s).miso = s.miso := rfl
@[simp] theorem returnRead_freeCtr (v : Word) (s : State) : (returnRead v s).freeCtr = s.freeCtr := rfl
@[simp] theorem returnRead_turns (v : Word) (s : State) : (returnRead v s).turns = s.turns := rfl
@[simp] theorem returnRead_prog (v : Word) (s : State) : (returnRead v s).prog = s.prog := rfl
@[simp] theorem returnRead_rpc (v : Word) (s : State) : (returnRead v s).rpc = s.rpc := rfl
@[simp] theorem returnRead_client (v : Word) (s : State) : (returnRead v s).client = s.client := rfl
@[simp] theorem returnRead_rxbuf (v : Word) (s : State) : (returnRead v s).rxbuf = s.rxbuf := rfl
@[simp] theorem returnRead_sel (v : Word) (s : State) : (returnRead v s).sel = s.sel := rfl
@[simp] theorem returnRead_ctl (v : Word) (s : State) (d : BitVec 1) : (returnRead v s).ctl d = s.ctl d := rfl
@[simp] theorem returnRead_line (v : Word) (s : State) : (returnRead v s).line = s.line := rfl
@[simp] theorem returnRead_initDone (v : Word) (s : State) (d : BitVec 1) : (returnRead v s).initDone d = s.initDone d := rfl

/-! ### emit -/

@[simp] theorem emit_len (e : BusEvent) (s : State) : (emit e s).len = s.len := rfl
@[simp] theorem emit_err (e : BusEvent) (s : State) : (emit e s).err = s.err := rfl
@[simp] theorem emit_ctrlSel (e : BusEvent) (s : State) : (emit e s).ctrlSel = s.ctrlSel := rfl
@[simp] theorem emit_ssmask (e : BusEvent) (s : State) : (emit e s).ssmask = s.ssmask := rfl
@[simp] theorem emit_ss (e : BusEvent) (s : State) : (emit e s).ss = s.ss := rfl
@[simp] theorem emit_phase (e : BusEvent) (s : State) : (emit e s).phase = s.phase := rfl
@[simp] theorem emit_seg (e : BusEvent) (s : State) : (emit e s).seg = s.seg := rfl
@[simp] theorem emit_txCount (e : BusEvent) (s : State) : (emit e s).txCount = s.txCount := rfl
@[simp] theorem emit_rxCount (e : BusEvent) (s : State) : (emit e s).rxCount = s.rxCount := rfl
@[simp] theorem emit_core0 (e : BusEvent) (s : State) : (emit e s).core0 = s.core0 := rfl
@[simp] theorem emit_core1 (e : BusEvent) (s : State) : (emit e s).core1 = s.core1 := rfl
@[simp] theorem emit_crc (e : BusEvent) (s : State) : (emit e s).crc = s.crc := rfl
@[simp] theorem emit_initDone0 (e : BusEvent) (s : State) : (emit e s).initDone0 = s.initDone0 := rfl
@[simp] theorem emit_initDone1 (e : BusEvent) (s : State) : (emit e s).initDone1 = s.initDone1 := rfl
@[simp] theorem emit_cfg (e : BusEvent) (s : State) : (emit e s).cfg = s.cfg := rfl
@[simp] theorem emit_trace (e : BusEvent) (s : State) : (emit e s).trace = s.trace ++ [e] := rfl
@[simp] theorem emit_reads (e : BusEvent) (s : State) : (emit e s).reads = s.reads := rfl
@[simp] theorem emit_marks (e : BusEvent) (s : State) : (emit e s).marks = s.marks := rfl
@[simp] theorem emit_hist (e : BusEvent) (s : State) : (emit e s).hist = s.hist := rfl
@[simp] theorem emit_miso (e : BusEvent) (s : State) : (emit e s).miso = s.miso := rfl
@[simp] theorem emit_freeCtr (e : BusEvent) (s : State) : (emit e s).freeCtr = s.freeCtr := rfl
@[simp] theorem emit_turns (e : BusEvent) (s : State) : (emit e s).turns = s.turns := rfl
@[simp] theorem emit_prog (e : BusEvent) (s : State) : (emit e s).prog = s.prog := rfl
@[simp] theorem emit_rpc (e : BusEvent) (s : State) : (emit e s).rpc = s.rpc := rfl
@[simp] theorem emit_client (e : BusEvent) (s : State) : (emit e s).client = s.client := rfl
@[simp] theorem emit_rxbuf (e : BusEvent) (s : State) : (emit e s).rxbuf = s.rxbuf := rfl
@[simp] theorem emit_sel (e : BusEvent) (s : State) : (emit e s).sel = s.sel := rfl
@[simp] theorem emit_ctl (e : BusEvent) (s : State) (d : BitVec 1) : (emit e s).ctl d = s.ctl d := rfl
@[simp] theorem emit_line (e : BusEvent) (s : State) : (emit e s).line = s.line := rfl
@[simp] theorem emit_initDone (e : BusEvent) (s : State) (d : BitVec 1) : (emit e s).initDone d = s.initDone d := rfl

/-! ### startSequence -/

@[simp] theorem startSequence_len (ops : List ClientOp) (s : State) : (startSequence ops s).len = s.len := rfl
@[simp] theorem startSequence_err (ops : List ClientOp) (s : State) : (startSequence ops s).err = s.err := rfl
@[simp] theorem startSequence_ctrlSel (ops : List ClientOp) (s : State) : (startSequence ops s).ctrlSel = s.ctrlSel := rfl
@[simp] theorem startSequence_ssmask (ops : List ClientOp) (s : State) : (startSequence ops s).ssmask = s.ssmask := rfl
@[simp] theorem startSequence_ss (ops : List ClientOp) (s : State) : (startSequence ops s).ss = s.ss := rfl
@[simp] theorem startSequence_phase (ops : List ClientOp) (s : State) : (startSequence ops s).phase = s.phase := rfl
@[simp] theorem startSequence_seg (ops : List ClientOp) (s : State) : (startSequence ops s).seg = s.seg := rfl
@[simp] theorem startSequence_txCount (ops : List ClientOp) (s : State) : (startSequence ops s).txCount = s.txCount := rfl
@[simp] theorem startSequence_rxCount (ops : List ClientOp) (s : State) : (startSequence ops s).rxCount = s.rxCount := rfl
@[simp] theorem startSequence_core0 (ops : List ClientOp) (s : State) : (startSequence ops s).core0 = s.core0 := rfl
@[simp] theorem startSequence_core1 (ops : List ClientOp) (s : State) : (startSequence ops s).core1 = s.core1 := rfl
@[simp] theorem startSequence_crc (ops : List ClientOp) (s : State) : (startSequence ops s).crc = s.crc := rfl
@[simp] theorem startSequence_initDone0 (ops : List ClientOp) (s : State) : (startSequence ops s).initDone0 = s.initDone0 := rfl
@[simp] theorem startSequence_initDone1 (ops : List ClientOp) (s : State) : (startSequence ops s).initDone1 = s.initDone1 := rfl
@[simp] theorem startSequence_cfg (ops : List ClientOp) (s : State) : (startSequence ops s).cfg = s.cfg := rfl
@[simp] theorem startSequence_trace (ops : List ClientOp) (s : State) : (startSequence ops s).trace = s.trace := rfl
@[simp] theorem startSequence_reads (ops : List ClientOp) (s : State) : (startSequence ops s).reads = s.reads := rfl
@[simp] theorem startSequence_marks (ops : List ClientOp) (s : State) : (startSequence ops s).marks = s.marks := rfl
@[simp] theorem startSequence_hist (ops : List ClientOp) (s : State) : (startSequence ops s).hist = s.hist := rfl
@[simp] theorem startSequence_miso (ops : List ClientOp) (s : State) : (startSequence ops s).miso = s.miso := rfl
@[simp] theorem startSequence_freeCtr (ops : List ClientOp) (s : State) : (startSequence ops s).freeCtr = s.freeCtr := rfl
@[simp] theorem startSequence_turns (ops : List ClientOp) (s : State) : (startSequence ops s).turns = s.turns := rfl
@[simp] theorem startSequence_prog (ops : List ClientOp) (s : State) : (startSequence ops s).prog = s.prog := rfl
@[simp] theorem startSequence_rpc (ops : List ClientOp) (s : State) : (startSequence ops s).rpc = s.rpc := rfl
@[simp] theorem startSequence_client (ops : List ClientOp) (s : State) : (startSequence ops s).client = ops ++ s.client := rfl
@[simp] theorem startSequence_rxbuf (ops : List ClientOp) (s : State) : (startSequence ops s).rxbuf = s.rxbuf := rfl
@[simp] theorem startSequence_sel (ops : List ClientOp) (s : State) : (startSequence ops s).sel = s.sel := rfl
@[simp] theorem startSequence_ctl (ops : List ClientOp) (s : State) (d : BitVec 1) : (startSequence ops s).ctl d = s.ctl d := rfl
@[simp] theorem startSequence_line (ops : List ClientOp) (s : State) : (startSequence ops s).line = s.line := rfl
@[simp] theorem startSequence_initDone (ops : List ClientOp) (s : State) (d : BitVec 1) : (startSequence ops s).initDone d = s.initDone d := rfl

/-! ### thenDo -/

@[simp] theorem thenDo_len (ops : List ClientOp) (s : State) : (thenDo ops s).len = s.len := rfl
@[simp] theorem thenDo_err (ops : List ClientOp) (s : State) : (thenDo ops s).err = s.err := rfl
@[simp] theorem thenDo_ctrlSel (ops : List ClientOp) (s : State) : (thenDo ops s).ctrlSel = s.ctrlSel := rfl
@[simp] theorem thenDo_ssmask (ops : List ClientOp) (s : State) : (thenDo ops s).ssmask = s.ssmask := rfl
@[simp] theorem thenDo_ss (ops : List ClientOp) (s : State) : (thenDo ops s).ss = s.ss := rfl
@[simp] theorem thenDo_phase (ops : List ClientOp) (s : State) : (thenDo ops s).phase = s.phase := rfl
@[simp] theorem thenDo_seg (ops : List ClientOp) (s : State) : (thenDo ops s).seg = s.seg := rfl
@[simp] theorem thenDo_txCount (ops : List ClientOp) (s : State) : (thenDo ops s).txCount = s.txCount := rfl
@[simp] theorem thenDo_rxCount (ops : List ClientOp) (s : State) : (thenDo ops s).rxCount = s.rxCount := rfl
@[simp] theorem thenDo_core0 (ops : List ClientOp) (s : State) : (thenDo ops s).core0 = s.core0 := rfl
@[simp] theorem thenDo_core1 (ops : List ClientOp) (s : State) : (thenDo ops s).core1 = s.core1 := rfl
@[simp] theorem thenDo_crc (ops : List ClientOp) (s : State) : (thenDo ops s).crc = s.crc := rfl
@[simp] theorem thenDo_initDone0 (ops : List ClientOp) (s : State) : (thenDo ops s).initDone0 = s.initDone0 := rfl
@[simp] theorem thenDo_initDone1 (ops : List ClientOp) (s : State) : (thenDo ops s).initDone1 = s.initDone1 := rfl
@[simp] theorem thenDo_cfg (ops : List ClientOp) (s : State) : (thenDo ops s).cfg = s.cfg := rfl
@[simp] theorem thenDo_trace (ops : List ClientOp) (s : State) : (thenDo ops s).trace = s.trace := rfl
@[simp] theorem thenDo_reads (ops : List ClientOp) (s : State) : (thenDo ops s).reads = s.reads := rfl
@[simp] theorem thenDo_marks (ops : List ClientOp) (s : State) : (thenDo ops s).marks = s.marks := rfl
@[simp] theorem thenDo_hist (ops : List ClientOp) (s : State) : (thenDo ops s).hist = s.hist := rfl
@[simp] theorem thenDo_miso (ops : List ClientOp) (s : State) : (thenDo ops s).miso = s.miso := rfl
@[simp] theorem thenDo_freeCtr (ops : List ClientOp) (s : State) : (thenDo ops s).freeCtr = s.freeCtr := rfl
@[simp] theorem thenDo_turns (ops : List ClientOp) (s : State) : (thenDo ops s).turns = s.turns := rfl
@[simp] theorem thenDo_prog (ops : List ClientOp) (s : State) : (thenDo ops s).prog = s.prog := rfl
@[simp] theorem thenDo_rpc (ops : List ClientOp) (s : State) : (thenDo ops s).rpc = s.rpc := rfl
@[simp] theorem thenDo_client (ops : List ClientOp) (s : State) : (thenDo ops s).client = ops ++ s.client := rfl
@[simp] theorem thenDo_rxbuf (ops : List ClientOp) (s : State) : (thenDo ops s).rxbuf = s.rxbuf := rfl
@[simp] theorem thenDo_sel (ops : List ClientOp) (s : State) : (thenDo ops s).sel = s.sel := rfl
@[simp] theorem thenDo_ctl (ops : List ClientOp) (s : State) (d : BitVec 1) : (thenDo ops s).ctl d = s.ctl d := rfl
@[simp] theorem thenDo_line (ops : List ClientOp) (s : State) : (thenDo ops s).line = s.line := rfl
@[simp] theorem thenDo_initDone (ops : List ClientOp) (s : State) (d : BitVec 1) : (thenDo ops s).initDone d = s.initDone d := rfl

/-! ### Reading a core after writing one -/

/-- A one-bit number is 0 or 1. -/
theorem bit_cases (c : BitVec 1) : c = 0#1 ∨ c = 1#1 := by
  revert c; decide

@[simp] theorem State.setCtl_ctl (s : State) (c d : BitVec 1) (k : Ctl) :
    (s.setCtl c k).ctl d = if d = c then k else s.ctl d := by
  rcases bit_cases c with rfl | rfl <;> rcases bit_cases d with rfl | rfl <;> rfl

@[simp] theorem State.setSel_ctl (s : State) (d : BitVec 1) (k : Ctl) :
    (s.setSel k).ctl d = if d = s.ctrlSel then k else s.ctl d := State.setCtl_ctl s s.ctrlSel d k

@[simp] theorem State.setSel_sel (s : State) (k : Ctl) : (s.setSel k).sel = k := by
  simp [State.sel]

/-- The value a read returned is the last one read. -/
@[simp] theorem returnRead_lastRead (v : Word) (s : State) : (returnRead v s).lastRead = v := by
  simp [returnRead, State.lastRead]

end Sys2Proof.Machine
end

