-- ==== Sys2Proof/Laws/Ops.lean ====
section
/-! SUPPORT. What one step can do, said once: the shared operations reduce to a list of basic acts on the block,
around which a step changes only what belongs to the requester and to the schedule. -/

namespace Sys2Proof.Machine

/-- `t` differs from `s` only in the schedule and in what belongs to the requester. -/
def SameBlock (s t : State) : Prop :=
  t = { s with
    turns := t.turns, freeCtr := t.freeCtr, prog := t.prog, rpc := t.rpc, client := t.client, rxbuf := t.rxbuf }

/-- The basic acts: every change a step other than a reset can make to the block, its inputs or the observation. -/
inductive Act : State → State → Prop
  | nothing (s : State) : Act s s
  /-- R220. -/
  | error (s : State) (k : ErrKind) : Act s (raiseError k s)
  /-- R102, R103. -/
  | accept (s : State) (txp rxp last crcen : Bool) (idle : s.phase = .idle)
      (init : s.initDone s.ctrlSel = true) : Act s (acceptSegment txp rxp last crcen s)
  /-- R140. -/
  | select (s : State) (c : BitVec 1) (m : Byte) (idle : s.phase = .idle) (released : s.ss = false)
      (legal : ssmaskLegal s.cfg.ncs m = true) : Act s { s with ctrlSel := c, ssmask := m }
  /-- R162, R163. -/
  | crc (s : State) (v : BitVec 16) (idle : s.phase = .idle) : Act s { s with crc := v }
  /-- R142. -/
  | len (s : State) (v : Word) : Act s { s with len := v }
  /-- R145. -/
  | clear (s : State) (v : Word) : Act s (clearErrors v s)
  /-- R104. -/
  | feed (s : State) (v : Word) (ready : s.txrdy = true) : Act s (txdataWrite v s)
  /-- R106. -/
  | take (s : State) (b : Byte) (rest : List Byte) (fifo : s.sel.rxf = b :: rest) (avl : s.rxavl = true) :
      Act s (returnRead (b.zeroExtend 32) (takeByte b rest s))
  /-- R107. -/
  | noByte (s : State) : Act s (returnRead 0#32 (raiseError .rxr s))
  /-- R143, R144, R146, R147, R165. -/
  | read (s : State) (v : Word) : Act s (returnRead v s)
  /-- R62. -/
  | notLegal (s : State) (isRead : Bool) : Act s (ignoreAccess isRead s)
  /-- R108 to R117. -/
  | block (s : State) (b : BlockStep) (on : enabled b s = true) : Act s (stepEffect b s)
  /-- R33. -/
  | setInit (s : State) (a b : Bool) : Act s { s with initDone0 := a, initDone1 := b }

/-- What a step other than a reset does: requester and schedule, one act, requester and schedule. -/
def Acts (s t : State) : Prop := ∃ u v, SameBlock s u ∧ Act u v ∧ SameBlock v t

theorem SameBlock.refl (s : State) : SameBlock s s := rfl

theorem SameBlock.trans {s t u : State} (h : SameBlock s t) (g : SameBlock t u) : SameBlock s u := by
  rw [SameBlock] at *; rw [g, h]

theorem Acts.of_act {s t : State} (h : Act s t) : Acts s t := ⟨s, t, .refl s, h, .refl t⟩

theorem Acts.of_same {s t : State} (h : SameBlock s t) : Acts s t := ⟨s, s, .refl s, .nothing s, h⟩

theorem Acts.before {s t u : State} (h : SameBlock s t) (g : Acts t u) : Acts s u := by
  obtain ⟨v, w, h1, h2, h3⟩ := g
  exact ⟨v, w, h.trans h1, h2, h3⟩

theorem Acts.after {s t u : State} (g : Acts s t) (h : SameBlock t u) : Acts s u := by
  obtain ⟨v, w, h1, h2, h3⟩ := g
  exact ⟨v, w, h1, h2, h3.trans h⟩

/-- The command port: ERR_BUSY, ERR_CMD, or the body in IDLE. -/
theorem act_issueCommand (legal : Bool) (body : State → State) (s : State)
    (h : s.phase = .idle → legal = true → Act s (body s)) : Act s (issueCommand legal body s) := by
  unfold issueCommand
  split
  · exact .error s _
  · split
    · exact h (by simpa using ‹¬ s.phase ≠ .idle›) ‹_›
    · exact .error s _

theorem act_xferBody (txp rxp last crcen : Bool) (s : State) (idle : s.phase = .idle) :
    Act s (xferBody txp rxp last crcen s) := by
  unfold xferBody
  split
  · exact .accept s _ _ _ _ idle ‹_›
  · exact .error s _

theorem act_selectBody (c : BitVec 1) (m : Byte) (s : State) (idle : s.phase = .idle)
    (legal : ssmaskLegal s.cfg.ncs m = true) : Act s (selectBody c m s) := by
  unfold selectBody
  split
  · exact .error s _
  · exact .select s c m idle (by simpa using ‹¬ s.ss = true›) legal

theorem act_commandWrite (w : Word) (s : State) : Act s (commandWrite w s) := by
  unfold commandWrite
  split <;> refine act_issueCommand _ _ _ fun idle legal => ?_
  · exact act_xferBody _ _ _ _ _ idle
  · exact act_selectBody _ _ _ idle legal
  · exact .crc s _ idle
  · exact .crc s _ idle
  · cases legal

theorem act_txdataWrite (v : Word) (s : State) : Act s (txdataWrite v s) := by
  by_cases h : s.txrdy = true
  · exact .feed s v h
  · rw [txdataWrite, if_neg h]; exact .error s _

theorem act_rxdataRead (s : State) : Act s (rxdataRead s) := by
  unfold rxdataRead
  split
  · split
    · exact .take s _ _ ‹_› ‹_›
    · exact .noByte s
  · exact .noByte s

theorem act_blockStep (b : BlockStep) (s : State) : Act s (blockStep b s) := by
  unfold blockStep
  split
  · exact .block s b ‹_›
  · exact .nothing s

/-- What an instruction can do. -/
theorem acts_exec (i : Instr) (s t : State) (h : exec i s = .next t) : Acts s t := by
  cases i
  case xfer => cases h; exact .of_act (act_issueCommand _ _ _ fun idle _ => act_xferBody _ _ _ _ _ idle)
  case select => cases h; exact .of_act (act_issueCommand _ _ _ fun idle legal => act_selectBody _ _ _ idle legal)
  case crcinit => cases h; exact .of_act (act_issueCommand _ _ _ fun idle _ => .crc s _ idle)
  case crcfeed => cases h; exact .of_act (act_issueCommand _ _ _ fun idle _ => .crc s _ idle)
  case cmdW => cases h; exact .of_act (act_commandWrite _ s)
  case lenW => cases h; exact .of_act (.len s _)
  case lenR => cases h; exact .of_act (.read s _)
  case statusR => cases h; exact .of_act (.read s _)
  case statusW => cases h; exact .of_act (.clear s _)
  case txdataW => cases h; exact .of_act (act_txdataWrite _ s)
  case rxdataR => cases h; exact .of_act (act_rxdataRead s)
  case selR => cases h; exact .of_act (.read s _)
  case crcR => cases h; exact .of_act (.read s _)
  case ignored a =>
    cases a
    all_goals cases h
    all_goals first | exact .of_act (.read s _) | exact .of_act (.nothing _)
  all_goals cases h
  all_goals first
    | exact .of_same rfl
    | exact .of_act (act_issueCommand _ _ _ fun _ legal => Bool.noConfusion legal)

theorem acts_notLegalAccess (isRead : Bool) (s t : State) (h : notLegalAccess isRead s = .next t) : Acts s t := by
  unfold notLegalAccess at h
  split at h <;> cases h
  exact .of_act (.notLegal s isRead)

theorem acts_runRequest (r : Request) (s t : State) (h : runRequest r s = .next t) : Acts s t := by
  unfold runRequest at h
  split at h
  · exact acts_exec _ _ _ h
  · unfold runUndecoded at h
    split at h
    · cases h; exact .of_act (act_commandWrite _ s)
    · split at h
      · cases h
      · exact acts_notLegalAccess _ _ _ h
    · split at h
      · cases h
      · exact acts_notLegalAccess _ _ _ h
    · cases h; exact .of_same rfl

/-- An access that goes on, and then the requester's own doing. -/
theorem andThen_next {o : Host.Outcome State Fault Refusal} {f : State → State} {t : State}
    (h : andThen o f = .next t) : ∃ u, o = .next u ∧ t = f u := by
  cases o <;> cases h
  exact ⟨_, rfl, rfl⟩

theorem sameBlock_waitTurn (s : State) : SameBlock s (waitTurn s) := by
  unfold waitTurn; split <;> rfl

theorem acts_clientStep (op : ClientOp) (s t : State) (h : clientStep op s = .next t) : Acts s t := by
  cases op
  case write off v => exact acts_runRequest _ _ _ h
  case read off => exact acts_runRequest _ _ _ h
  case poll off mask val =>
    simp only [clientStep] at h
    obtain ⟨u, hu, rfl⟩ := andThen_next h
    have := acts_runRequest _ _ _ hu
    split
    · exact this
    · exact this.after rfl
  case segLoop f tx =>
    simp only [clientStep] at h
    obtain ⟨u, hu, rfl⟩ := andThen_next h
    exact (acts_runRequest _ _ _ hu).after rfl
  case segTake =>
    simp only [clientStep] at h
    obtain ⟨u, hu, rfl⟩ := andThen_next h
    exact (acts_runRequest _ _ _ hu).after rfl
  case waitTest => cases h; exact .of_same (sameBlock_waitTurn s)
  all_goals cases h; exact .of_same rfl

theorem acts_runPseudo (p : Pseudo) (s t : State) (h : runPseudo p s = .next t) : Acts s t := by
  cases p <;> simp only [runPseudo] at h
  case readcrc => split at h <;> cases h; exact .of_same rfl
  all_goals first | exact acts_exec _ _ _ h | (cases h; exact .of_same rfl)

theorem acts_runStmt (st : Stmt) (s t : State) (h : runStmt st s = .next t) : Acts s t := by
  cases st <;> simp only [runStmt] at h
  case request r => exact acts_runRequest r s t h
  case busWrite =>
    split at h
    · exact acts_runRequest _ _ _ h
    · cases h
  case busRead =>
    split at h
    · exact acts_runRequest _ _ _ h
    · cases h
  case pseudo p => exact acts_runPseudo p s t h
  all_goals cases h; exact .of_same rfl

theorem acts_requesterTurn (s t : State) (h : requesterTurn s = .next t) : Acts s t := by
  unfold requesterTurn at h
  split at h
  · refine .before ?_ (acts_clientStep _ _ _ h); rfl
  · split at h
    · refine .before ?_ (acts_runStmt _ _ _ h); rfl
    · cases h; exact .of_same rfl

theorem acts_runTurn (u : Turn) (s t : State) (hu : u ≠ .reset) (h : runTurn u s = .next t) : Acts s t := by
  cases u <;> simp only [runTurn] at h
  case requester => exact acts_requesterTurn s t h
  case block b => cases h; exact .of_act (act_blockStep b s)
  case reset => exact absurd rfl hu
  case setInit =>
    unfold platformSetInit at h
    split at h <;> cases h
    exact .of_act (.setInit s _ _)

/-- The agent that moves where `turns` names none is never the platform. -/
theorem nextTurn_ne_reset (s : State) : nextTurn s ≠ .reset := by
  unfold nextTurn; split <;> simp

/-- What a step can do: its inversion lemma, which invariants cite. -/
theorem step_acts (s t : State) (h : step s = .next t) :
    (∃ rest, s.turns = .reset :: rest ∧ t = platformReset { s with turns := rest }) ∨ Acts s t := by
  unfold step at h
  split at h
  · rename_i u rest hs
    by_cases hu : u = .reset
    · subst hu; cases h; exact .inl ⟨rest, hs, rfl⟩
    · refine .inr (.before ?_ (acts_runTurn _ _ _ hu h)); rfl
  · refine .inr (.before ?_ (acts_runTurn _ _ _ (nextTurn_ne_reset s) h)); rfl

/-! ### The accesses a requester's sequences make -/

theorem runRequest_readStatus (s : State) :
    runRequest (.read 0x08 4) s = .next (returnRead s.statusWord s) := rfl

theorem runRequest_readRxdata (s : State) : runRequest (.read 0x10 4) s = .next (rxdataRead s) := rfl

theorem runRequest_readCrc (s : State) : runRequest (.read 0x18 4) s = .next (returnRead s.crcWord s) := rfl

theorem runRequest_writeTxdata (v : Word) (s : State) :
    runRequest (.write 0x0C 4 v) s = .next (txdataWrite v s) := rfl

theorem runRequest_writeLen (v : Word) (s : State) : runRequest (.write 0x04 4 v) s = .next (lenWrite v s) := rfl

theorem runRequest_writeCmd (v : Word) (s : State) :
    runRequest (.write 0x00 4 v) s = .next (commandWrite v s) := rfl

/-! ### The byte ports, by their ready flags -/

theorem txdataWrite_of_ready (v : Word) (s : State) (h : s.txrdy = true) :
    txdataWrite v s =
      { s.setSel (s.sel.pushTx (lowByte v)) with
        txCount := s.txCount + 1
        hist := { s.hist with fed := s.hist.fed ++ [lowByte v] } } := if_pos h

theorem txdataWrite_of_not_ready (v : Word) (s : State) (h : s.txrdy = false) :
    txdataWrite v s = raiseError .txw s := if_neg (by simp [h])

theorem rxdataRead_of_available (s : State) (b : Byte) (rest : List Byte) (h : s.rxavl = true)
    (hr : s.sel.rxf = b :: rest) : rxdataRead s = returnRead (b.zeroExtend 32) (takeByte b rest s) := by
  rw [rxdataRead, if_pos h, hr]

theorem rxdataRead_of_not_available (s : State) (h : s.rxavl = false) :
    rxdataRead s = returnRead 0#32 (raiseError .rxr s) := if_neg (by simp [h])

/-! ### Asserting chip-select -/

theorem assertCs_sel (s : State) : (assertCs s).sel = if s.ss then s.sel else { s.sel with auxCs := true } := by
  unfold assertCs; split
  · rfl
  · exact State.setSel_sel s _

theorem assertCs_other (s : State) (c : BitVec 1) (hc : c ≠ s.ctrlSel) : (assertCs s).ctl c = s.ctl c := by
  unfold assertCs; split
  · rfl
  · exact (State.setSel_ctl s c _).trans (if_neg hc)

theorem assertCs_fields (s : State) :
    (assertCs s).cfg = s.cfg ∧ (assertCs s).ssmask = s.ssmask ∧ (assertCs s).ctrlSel = s.ctrlSel ∧
      (assertCs s).ss = true ∧ (assertCs s).crc = s.crc := by
  unfold assertCs; split
  · exact ⟨rfl, rfl, rfl, ‹_›, rfl⟩
  · exact ⟨rfl, rfl, rfl, rfl, rfl⟩

end Sys2Proof.Machine
end

