-- ==== Sys2Proof/Laws/Inv.lean ====
section
/-! SUPPORT. The block's invariant, operation by operation: each lemma says that one operation keeps it. -/

namespace Sys2Proof.Machine

/-- What Inv says of the selected core `k` and the sequencer. -/
structure CoreInv (p : Config.Params) (k : Ctl) (ss : Bool) (ph : Phase) (sg : Seg) (tx rx : Nat) : Prop where
  aux : k.auxCs = ss
  idle : ph = .idle → k.Quiet
  asserted : ph ≠ .idle → ss = true
  count : ph ≠ .idle → tx = rx + k.rxf.length + k.inShifter + k.txf.length + k.dummyPending
  bound : ph ≠ .idle → tx ≤ sg.len.toNat
  tail : ph = .tail → tx = sg.len.toNat ∧ rx = sg.len.toNat
  txCap : k.txf.length ≤ p.txd
  rxCap : k.rxf.length + k.inShifter ≤ p.rxd
  dummyCap : k.dummyPending ≤ Config.maxDummyBurst
  source : ph ≠ .idle → if sg.txp then k.dummyPending = 0 else k.txf = []

theorem Inv.core {s : State} (h : Inv s) : CoreInv s.cfg s.sel s.ss s.phase s.seg s.txCount s.rxCount :=
  ⟨by have := h.aux s.ctrlSel; simp only [decide_true, Bool.and_true] at this; exact this, h.idle, h.asserted, h.count, h.bound, h.tail, h.txCap, h.rxCap, h.dummyCap, h.source⟩

theorem Inv.of_core {s t : State} (h : Inv s) (hcfg : t.cfg = s.cfg) (hmask : t.ssmask = s.ssmask)
    (hsel : t.ctrlSel = s.ctrlSel) (hoth : ∀ c, c ≠ s.ctrlSel → t.ctl c = s.ctl c)
    (hk : CoreInv t.cfg t.sel t.ss t.phase t.seg t.txCount t.rxCount) : Inv t := by
  refine ⟨hcfg ▸ h.params, hcfg ▸ h.stall, by rw [hcfg, hmask]; exact h.mask, ?_, ?_, hk.idle, hk.asserted, hk.count, hk.bound,
    hk.tail, hk.txCap, hk.rxCap, hk.dummyCap, hk.source⟩
  · intro c
    by_cases hc : c = t.ctrlSel
    · subst hc; simpa [State.sel] using hk.aux
    · rw [hoth c (hsel ▸ hc)]; have := h.aux c; simp_all
  · intro c hc
    rw [hoth c (hsel ▸ hc)]; exact h.other c (hsel ▸ hc)

/-- Fields no clause of Inv reads may change. -/
theorem Inv.of_eq {s t : State} (h : Inv s) (hcfg : t.cfg = s.cfg) (hmask : t.ssmask = s.ssmask)
    (hsel : t.ctrlSel = s.ctrlSel) (h0 : t.core0 = s.core0) (h1 : t.core1 = s.core1) (hss : t.ss = s.ss) (hp : t.phase = s.phase)
    (hsg : t.seg = s.seg) (htx : t.txCount = s.txCount) (hrx : t.rxCount = s.rxCount) : Inv t := by
  have hctl : ∀ c, t.ctl c = s.ctl c := by intro c; simp [State.ctl, h0, h1]
  refine h.of_core hcfg hmask hsel (fun c _ => hctl c) ?_
  have : t.sel = s.sel := by rw [State.sel, hsel, hctl]; rfl
  rw [hcfg, this, hss, hp, hsg, htx, hrx]; exact h.core

theorem Inv.raiseError {s : State} (h : Inv s) (k : ErrKind) : Inv (raiseError k s) := by apply h.of_eq <;> rfl
theorem Inv.clearErrors {s : State} (h : Inv s) (v : Word) : Inv (clearErrors v s) := by apply h.of_eq <;> rfl
theorem Inv.returnRead {s : State} (h : Inv s) (v : Word) : Inv (returnRead v s) := by apply h.of_eq <;> rfl
theorem Inv.startSequence {s : State} (h : Inv s) (o : List ClientOp) : Inv (startSequence o s) := by apply h.of_eq <;> rfl
theorem Inv.thenDo {s : State} (h : Inv s) (o : List ClientOp) : Inv (thenDo o s) := by apply h.of_eq <;> rfl
theorem Inv.emit {s : State} (h : Inv s) (e : BusEvent) : Inv (emit e s) := by apply h.of_eq <;> rfl

theorem Inv.acceptSegment {s : State} (h : Inv s) (hi : s.phase = .idle) (t r l c : Bool) :
    Inv (Machine.acceptSegment t r l c s) := by
  obtain ⟨q1, q2, q3, q4⟩ := h.idle hi
  obtain ⟨e1, e2, e3, e4, _⟩ := assertCs_fields s
  refine h.of_core e1 e2 e3 (fun c hc => assertCs_other s c hc) ?_
  have e : (Machine.acceptSegment t r l c s).sel = { s.sel with auxCs := true } := by
    refine (assertCs_sel s).trans ?_
    split
    · have := h.core.aux.trans ‹s.ss = true›
      rw [← this]
    · rfl
  rw [e]
  constructor <;> simp_all [Machine.acceptSegment, Ctl.Quiet, Ctl.inShifter]

theorem Inv.selectBody {s : State} (h : Inv s) (hi : s.phase = .idle) (c : BitVec 1) (m : Byte)
    (hm : ssmaskLegal s.cfg.ncs m = true) : Inv (selectBody c m s) := by
  unfold Machine.selectBody
  split
  · exact h.raiseError _
  · rename_i hss
    have hq : ∀ d, (s.ctl d).Quiet := by
      intro d
      by_cases hd : d = s.ctrlSel
      · subst hd; exact h.idle hi
      · exact h.other d hd
    have ha : ∀ d, (s.ctl d).auxCs = false := by intro d; simpa [hss] using h.aux d
    obtain ⟨q1, q2, q3, q4⟩ := hq c
    refine ⟨h.params, h.stall, hm, fun d => (ha d).trans (by simp [hss]), fun d _ => hq d, fun _ => hq c, ?_, ?_, ?_, ?_, ?_, ?_, ?_, ?_⟩
    all_goals simp_all [State.sel, State.ctl, Ctl.inShifter]

theorem Inv.txdataWrite {s : State} (h : Inv s) (v : Word) : Inv (txdataWrite v s) := by
  unfold Machine.txdataWrite
  split
  · rename_i hr
    simp only [State.txrdy, full, Bool.and_eq_true, decide_eq_true_eq, Bool.not_eq_true', decide_eq_false_iff_not] at hr
    obtain ⟨⟨⟨hp, ht⟩, hl⟩, hf⟩ := hr
    have hc := h.core
    refine h.of_core rfl rfl rfl (fun c hc => (State.setSel_ctl s c _).trans (if_neg hc)) ?_
    have e : State.sel { s.setSel (s.sel.pushTx (lowByte v)) with
      txCount := s.txCount + 1
      hist := { s.hist with fed := s.hist.fed ++ [lowByte v] } } = s.sel.pushTx (lowByte v) := State.setSel_sel s _
    rw [e]
    obtain ⟨a1, a2, a3, a4, a5, a6, a7, a8, a9, a10⟩ := hc
    constructor <;> simp_all [Ctl.pushTx, Ctl.inShifter] <;> omega
  · exact h.raiseError _

theorem Inv.takeByte {s : State} (h : Inv s) (b : Byte) (rest : List Byte) (hr : s.sel.rxf = b :: rest) (hp : s.phase = .run) : Inv (takeByte b rest s) := by
  have hc := h.core
  refine h.of_core rfl rfl rfl (fun c hc => (State.setSel_ctl s c _).trans (if_neg hc)) ?_
  have e : (Machine.takeByte b rest s).sel = { s.sel with rxf := rest } := State.setSel_sel s _
  rw [e]
  obtain ⟨a1, a2, a3, a4, a5, a6, a7, a8, a9, a10⟩ := hc
  constructor <;> simp_all [Machine.takeByte, Ctl.inShifter] <;> omega

section
variable {p : Config.Params} {k : Ctl} {ss : Bool} {ph : Phase} {sg : Seg} {tx rx : Nat}

theorem CoreInv.burst (h : CoreInv p k ss .run sg tx rx) (ht : sg.txp = false) (hl : tx < sg.len.toNat) (he : k.txe = true) :
    CoreInv p { k with dummyPending := min (sg.len.toNat - tx) Config.maxDummyBurst } ss .run sg
      (tx + min (sg.len.toNat - tx) Config.maxDummyBurst) rx := by
  obtain ⟨a1, a2, a3, a4, a5, a6, a7, a8, a9, a10⟩ := h
  simp only [Ctl.txe, List.isEmpty_iff, Bool.and_eq_true, decide_eq_true_eq] at he
  have hn : min (sg.len.toNat - tx) Config.maxDummyBurst ≤ sg.len.toNat - tx := Nat.min_le_left _ _
  have hm : min (sg.len.toNat - tx) Config.maxDummyBurst ≤ Config.maxDummyBurst := Nat.min_le_right _ _
  generalize min (sg.len.toNat - tx) Config.maxDummyBurst = n at *
  constructor <;> simp_all [Ctl.inShifter] <;> omega

theorem CoreInv.endRun (h : CoreInv p k ss .run sg tx rx) (ht : tx = sg.len.toNat) (hr : rx = sg.len.toNat) :
    CoreInv p k ss .tail sg tx rx := by
  obtain ⟨a1, a2, a3, a4, a5, a6, a7, a8, a9, a10⟩ := h
  constructor <;> simp_all

theorem CoreInv.tailQuiet (h : CoreInv p k ss .tail sg tx rx) : k.Quiet := by
  obtain ⟨e1, e2⟩ := h.tail rfl
  have := h.count (by simp)
  have h1 : k.txf.length = 0 := by omega
  have h2 : k.rxf.length = 0 := by omega
  have h3 : k.inShifter = 0 := by omega
  refine ⟨by simpa using h1, by simpa using h2, by omega, ?_⟩
  simpa [Ctl.inShifter] using h3

theorem CoreInv.quietIdle (h : CoreInv p k ss ph sg tx rx) (hq : k.Quiet) (a : Bool) : CoreInv p { k with auxCs := a } a .idle sg tx rx := by
  obtain ⟨a1, a2, a3, a4, a5, a6, a7, a8, a9, a10⟩ := h
  constructor <;> simp_all [Ctl.Quiet, Ctl.inShifter]

theorem CoreInv.not_idle (h : CoreInv p k ss ph sg tx rx) (hb : ¬ k.Quiet) : ph ≠ .idle := fun e => hb (h.idle e)

theorem CoreInv.startData (h : CoreInv p k ss ph sg tx rx) {b : Byte} {rest : List Byte} (hx : k.txf = b :: rest) (hb : k.shBusy = false)
    (hr : k.rxf.length < p.rxd) : CoreInv p { k with txf := rest, shMosi := b, shBusy := true } ss ph sg tx rx := by
  have hp := h.not_idle (by simp [Ctl.Quiet, hx])
  obtain ⟨a1, a2, a3, a4, a5, a6, a7, a8, a9, a10⟩ := h
  have a4' := a4 hp
  refine ⟨a1, fun e => absurd e hp, a3, fun _ => ?_, a5, a6, ?_, ?_, a9, fun _ => ?_⟩
  · simp_all [Ctl.inShifter]; omega
  · simp_all; omega
  · simp_all [Ctl.inShifter]; 
  · have := a10 hp; simp_all

theorem CoreInv.startDummy (h : CoreInv p k ss ph sg tx rx) (b : Byte) (hx : k.txf = []) (hd : 0 < k.dummyPending) (hb : k.shBusy = false)
    (hr : k.rxf.length < p.rxd) :
    CoreInv p { k with dummyPending := k.dummyPending - 1, shMosi := b, shBusy := true } ss ph sg tx rx := by
  have hp := h.not_idle (by simp [Ctl.Quiet]; omega)
  obtain ⟨a1, a2, a3, a4, a5, a6, a7, a8, a9, a10⟩ := h
  have a4' := a4 hp
  refine ⟨a1, fun e => absurd e hp, a3, fun _ => ?_, a5, a6, a7, ?_, ?_, fun _ => ?_⟩
  · simp_all [Ctl.inShifter]; omega
  · simp_all [Ctl.inShifter]
  · simp; omega
  · have := a10 hp
    split <;> simp_all

theorem CoreInv.endByte (h : CoreInv p k ss ph sg tx rx) (m : Byte) (hb : k.shBusy = true) :
    CoreInv p { k with rxf := k.rxf ++ [m], shBusy := false } ss ph sg tx rx := by
  have hp := h.not_idle (by simp [Ctl.Quiet, hb])
  obtain ⟨a1, a2, a3, a4, a5, a6, a7, a8, a9, a10⟩ := h
  refine ⟨a1, fun e => absurd e hp, a3, fun _ => ?_, a5, a6, a7, ?_, a9, a10⟩
  · have := a4 hp; simp_all [Ctl.inShifter]; omega
  · simp_all [Ctl.inShifter]
end

theorem Inv.blockStep {s : State} (h : Inv s) (b : BlockStep) : Inv (blockStep b s) := by
  unfold Machine.blockStep
  split
  swap
  · exact h
  rename_i he
  have hc := h.core
  have other : ∀ (k : Ctl) c, c ≠ s.ctrlSel → (s.setSel k).ctl c = s.ctl c := fun k c hc => (State.setSel_ctl s c k).trans (if_neg hc)
  cases b
  · refine h.of_core rfl rfl rfl (other _) ?_
    simp only [enabled, Bool.and_eq_true, decide_eq_true_eq, Bool.not_eq_true'] at he
    obtain ⟨⟨⟨hp, ht⟩, hl⟩, hx⟩ := he
    have e : (issueBurst s).sel = { s.sel with dummyPending := burstSize s } := State.setSel_sel s _
    rw [hp] at hc
    have := hc.burst ht hl hx
    change CoreInv s.cfg (issueBurst s).sel s.ss s.phase s.seg _ _
    rw [e, hp]; exact this
  · simp only [stepEffect, discardByte]
    split
    · refine h.takeByte _ _ ‹_› ?_
      simp only [enabled, Bool.and_eq_true, decide_eq_true_eq] at he; exact he.1.1
    · exact h
  · simp only [enabled, Bool.and_eq_true, decide_eq_true_eq] at he
    obtain ⟨⟨hp, ht⟩, hr⟩ := he
    rw [hp] at hc
    exact h.of_core rfl rfl rfl (fun _ _ => rfl) (hc.endRun ht hr)
  · simp only [enabled, Bool.and_eq_true, decide_eq_true_eq] at he
    have hp := he.1
    rw [hp] at hc
    have hq := hc.tailQuiet
    simp only [stepEffect, leaveTail]
    split
    · refine h.of_core rfl rfl rfl (other _) ?_
      have e : (releaseCs s).sel = { s.sel with auxCs := false } := State.setSel_sel s _
      rw [e]; exact hc.quietIdle hq false
    · refine h.of_core rfl rfl rfl (fun _ _ => rfl) ?_
      have := hc.quietIdle hq s.ss
      have e2 : ({ s.sel with auxCs := s.ss } : Ctl) = s.sel := by rw [← hc.aux]
      rw [e2] at this; exact this
  · simp only [enabled, State.rxRoom, h.stall, Bool.and_eq_true, Bool.not_eq_true', Bool.or_eq_true, decide_eq_true_eq] at he
    obtain ⟨⟨hb, hx⟩, hr⟩ := he
    have hr : s.sel.rxf.length < s.cfg.rxd := by simpa using hr
    simp only [stepEffect, startByte]
    split
    · refine h.of_core rfl rfl rfl (other _) ?_
      rw [State.setSel_sel]; exact hc.startData ‹_› hb hr
    · refine h.of_core rfl rfl rfl (other _) ?_
      rw [State.setSel_sel]; exact hc.startDummy _ ‹_› (by simp_all) hb hr
  · simp only [enabled] at he
    have hf : full s.cfg.rxd s.sel.rxf = false := by
      have := hc.rxCap; simp only [Ctl.inShifter, he, if_true] at this
      simp only [full, decide_eq_false_iff_not]; omega
    refine h.of_core rfl rfl rfl (other _) ?_
    have e : (endByte s).sel = { s.sel with rxf := pushRx s (drawMiso s), shBusy := false } := State.setSel_sel s _
    simp only [stepEffect]
    rw [e, pushRx, hf]; exact hc.endByte _ he

theorem Inv.resetWith {p : Config.Params} (hp : Params.Legal p) (hs : p.rxFull = .stall) (a b : Bool) : Inv (State.resetWith p a b) := by
  obtain ⟨p1, p2, p3, p4⟩ := hp
  have hsel : (State.resetWith p a b).sel = Ctl.reset := rfl
  refine ⟨⟨p1, p2, p3, p4⟩, hs, ?_, ?_, ?_, ?_, ?_, ?_, ?_, ?_, ?_, ?_, ?_, ?_⟩
  · have h1 : onehot 0x01#8 = true := by decide
    have h2 : idx 0x01#8 = 0 := by decide
    change ssmaskLegal p.ncs 0x01#8 = true
    rw [ssmaskLegal, h1, h2]
    simpa using (show 0 < p.ncs from p3)
  · intro c; rcases bit_cases c with rfl | rfl <;> rfl
  · intro c hc; rcases bit_cases c with rfl | rfl <;> exact ⟨rfl, rfl, rfl, rfl⟩
  · intro _; exact ⟨rfl, rfl, rfl, rfl⟩
  all_goals try rw [hsel]
  · exact fun h => absurd rfl h
  · exact fun h => absurd rfl h
  · exact fun h => absurd rfl h
  · intro h; cases h
  · exact Nat.zero_le _
  · exact Nat.zero_le _
  · exact Nat.zero_le _
  · exact fun h => absurd rfl h

theorem Inv.platformReset {s : State} (h : Inv s) : Inv (platformReset s) := by
  have := Inv.resetWith h.params h.stall s.initDone0 s.initDone1
  unfold Machine.platformReset
  split <;> (apply this.of_eq <;> rfl)

end Sys2Proof.Machine
end

