-- ==== Sys2Proof/Laws/PerInstr.lean ====
section
/-! SUPPORT. The family RoundTrip: for each instruction, decoding its encoding gives it back; and the lemmas on
fields of words that this takes. -/

namespace Sys2Proof.Laws

/-- Decoding the encoding of the instruction gives it back where it is well-formed, whatever byte is clocked out while
bytes come in (R81, R89, R91). -/
def RoundTrip.Statement (i : Instr) : Prop := ∀ dummy : Byte, i.wf = true → decode (encode dummy i) = .ok i

/-! ### Fields of joined words -/

theorem append_field_high {a b : Nat} (x : BitVec a) (y : BitVec b) (lo n : Nat) :
    (x ++ y).extractLsb' (b + lo) n = x.extractLsb' lo n := by
  ext i hi
  rw [BitVec.getElem_extractLsb', BitVec.getElem_extractLsb', BitVec.getLsbD_append, if_neg (by omega)]
  congr 1; omega

theorem append_field_low {a b : Nat} (x : BitVec a) (y : BitVec b) (lo n : Nat) (h : lo + n ≤ b) :
    (x ++ y).extractLsb' lo n = y.extractLsb' lo n := by
  ext i hi
  rw [BitVec.getElem_extractLsb', BitVec.getElem_extractLsb', BitVec.getLsbD_append, if_pos (by omega)]

theorem whole_field {n : Nat} (x : BitVec n) : x.extractLsb' 0 n = x := by
  ext i hi; simp

theorem select_fields (c : BitVec 1) (m : Byte) :
    field (selectWord c m) 0 4 = 0x2#4 ∧ field (selectWord c m) 16 16 = 0#16 ∧
      field (selectWord c m) 5 3 = 0#3 ∧ field (selectWord c m) 4 1 = c ∧ field (selectWord c m) 8 8 = m :=
  ⟨(append_field_low _ _ 0 4 (by decide)).trans (whole_field _),
    ((append_field_high (0#16 ++ m ++ 0#3 ++ c) 0x2#4 12 16).trans <|
      (append_field_high (0#16 ++ m ++ 0#3) c 11 16).trans <|
      (append_field_high (0#16 ++ m) 0#3 8 16).trans <| (append_field_high 0#16 m 0 16).trans (whole_field _)),
    ((append_field_high (0#16 ++ m ++ 0#3 ++ c) 0x2#4 1 3).trans <|
      (append_field_high (0#16 ++ m ++ 0#3) c 0 3).trans <|
      (append_field_low (0#16 ++ m) 0#3 0 3 (by decide)).trans (whole_field _)),
    ((append_field_high (0#16 ++ m ++ 0#3 ++ c) 0x2#4 0 1).trans <|
      (append_field_low (0#16 ++ m ++ 0#3) c 0 1 (by decide)).trans (whole_field _)),
    ((append_field_high (0#16 ++ m ++ 0#3 ++ c) 0x2#4 4 8).trans <|
      (append_field_high (0#16 ++ m ++ 0#3) c 3 8).trans <|
      (append_field_high (0#16 ++ m) 0#3 0 8).trans <|
      (append_field_low 0#16 m 0 8 (by decide)).trans (whole_field _))⟩

theorem crcfeed_fields (m : Byte) :
    field (crcfeedWord m) 0 4 = 0x4#4 ∧ field (crcfeedWord m) 16 16 = 0#16 ∧ field (crcfeedWord m) 4 4 = 0#4 ∧
      field (crcfeedWord m) 8 8 = m :=
  ⟨(append_field_low _ _ 0 4 (by decide)).trans (whole_field _),
    ((append_field_high (0#16 ++ m ++ 0#4) 0x4#4 12 16).trans <|
      (append_field_high (0#16 ++ m) 0#4 8 16).trans <| (append_field_high 0#16 m 0 16).trans (whole_field _)),
    ((append_field_high (0#16 ++ m ++ 0#4) 0x4#4 0 4).trans <|
      (append_field_low (0#16 ++ m) 0#4 0 4 (by decide)).trans (whole_field _)),
    ((append_field_high (0#16 ++ m ++ 0#4) 0x4#4 4 8).trans <|
      (append_field_high (0#16 ++ m) 0#4 0 8).trans <|
      (append_field_low 0#16 m 0 8 (by decide)).trans (whole_field _))⟩

theorem reserved_fields (op : BitVec 4) (rest : BitVec 28) :
    field (reservedWord op rest) 0 4 = op ∧ field (reservedWord op rest) 4 28 = rest :=
  ⟨(append_field_low rest op 0 4 (by decide)).trans (whole_field _),
    (append_field_high rest op 0 28).trans (whole_field _)⟩

theorem xfer_fields (txp rxp last crcen : Bool) :
    field (xferWord txp rxp last crcen) 0 4 = 0x1#4 ∧ field (xferWord txp rxp last crcen) 8 24 = 0#24 ∧
      (xferWord txp rxp last crcen).getLsbD 4 = txp ∧ (xferWord txp rxp last crcen).getLsbD 5 = rxp ∧
      (xferWord txp rxp last crcen).getLsbD 6 = last ∧ (xferWord txp rxp last crcen).getLsbD 7 = crcen := by
  cases txp <;> cases rxp <;> cases last <;> cases crcen <;> decide

theorem join_fields {w : Nat} (x : BitVec w) (lo a b : Nat) :
    x.extractLsb' (lo + a) b ++ x.extractLsb' lo a = x.extractLsb' lo (b + a) := by
  ext i hi
  rw [BitVec.getElem_append]
  simp only [BitVec.getElem_extractLsb']
  split
  · rfl
  · congr 1; omega

/-- R180, R91: the address bytes joined again. -/
theorem bytes3_join (off : BitVec 24) :
    off.extractLsb' 16 8 ++ off.extractLsb' 8 8 ++ off.extractLsb' 0 8 = off := by
  rw [join_fields off 8 8 8]
  exact (join_fields off 0 8 16).trans (whole_field _)

theorem bytes4_join (off : Word) :
    off.extractLsb' 24 8 ++ off.extractLsb' 16 8 ++ off.extractLsb' 8 8 ++ off.extractLsb' 0 8 = off := by
  rw [join_fields off 16 8 8, join_fields off 8 8 16]
  exact (join_fields off 0 8 24).trans (whole_field _)

/-! ### One lemma for each instruction -/

theorem RoundTrip.xfer (txp rxp last crcen : Bool) : RoundTrip.Statement (.xfer txp rxp last crcen) := by
  intro dummy _
  obtain ⟨h1, h2, h3, h4, h5, h6⟩ := xfer_fields txp rxp last crcen
  simp only [decode, encode, decodeCommand, h1, h2, h3, h4, h5, h6]; rfl

theorem RoundTrip.select (ctrl : BitVec 1) (ssmask : Byte) : RoundTrip.Statement (.select ctrl ssmask) := by
  intro dummy _
  obtain ⟨h1, h2, h3, h4, h5⟩ := select_fields ctrl ssmask
  simp [decode, encode, decodeCommand, h1, h2, h3, h4, h5]

theorem RoundTrip.crcinit : RoundTrip.Statement .crcinit := by
  intro dummy _
  rfl

theorem RoundTrip.crcfeed (data : Byte) : RoundTrip.Statement (.crcfeed data) := by
  intro dummy _
  obtain ⟨h1, h2, h3, h4⟩ := crcfeed_fields data
  simp [decode, encode, decodeCommand, h1, h2, h3, h4]

theorem RoundTrip.reservedOp0 (rest : BitVec 28) : RoundTrip.Statement (.reservedOp0 rest) := by
  intro dummy _
  obtain ⟨h1, h2⟩ := reserved_fields 0x0#4 rest
  simp [decode, encode, decodeCommand, h1, h2]

theorem RoundTrip.reservedOp5 (rest : BitVec 28) : RoundTrip.Statement (.reservedOp5 rest) := by
  intro dummy _
  obtain ⟨h1, h2⟩ := reserved_fields 0x5#4 rest
  simp [decode, encode, decodeCommand, h1, h2]

theorem RoundTrip.reservedOp6 (rest : BitVec 28) : RoundTrip.Statement (.reservedOp6 rest) := by
  intro dummy _
  obtain ⟨h1, h2⟩ := reserved_fields 0x6#4 rest
  simp [decode, encode, decodeCommand, h1, h2]

theorem RoundTrip.reservedOp7 (rest : BitVec 28) : RoundTrip.Statement (.reservedOp7 rest) := by
  intro dummy _
  obtain ⟨h1, h2⟩ := reserved_fields 0x7#4 rest
  simp [decode, encode, decodeCommand, h1, h2]

theorem RoundTrip.reservedOp8 (rest : BitVec 28) : RoundTrip.Statement (.reservedOp8 rest) := by
  intro dummy _
  obtain ⟨h1, h2⟩ := reserved_fields 0x8#4 rest
  simp [decode, encode, decodeCommand, h1, h2]

theorem RoundTrip.reservedOp9 (rest : BitVec 28) : RoundTrip.Statement (.reservedOp9 rest) := by
  intro dummy _
  obtain ⟨h1, h2⟩ := reserved_fields 0x9#4 rest
  simp [decode, encode, decodeCommand, h1, h2]

theorem RoundTrip.reservedOpA (rest : BitVec 28) : RoundTrip.Statement (.reservedOpA rest) := by
  intro dummy _
  obtain ⟨h1, h2⟩ := reserved_fields 0xA#4 rest
  simp [decode, encode, decodeCommand, h1, h2]

theorem RoundTrip.reservedOpB (rest : BitVec 28) : RoundTrip.Statement (.reservedOpB rest) := by
  intro dummy _
  obtain ⟨h1, h2⟩ := reserved_fields 0xB#4 rest
  simp [decode, encode, decodeCommand, h1, h2]

theorem RoundTrip.reservedOpC (rest : BitVec 28) : RoundTrip.Statement (.reservedOpC rest) := by
  intro dummy _
  obtain ⟨h1, h2⟩ := reserved_fields 0xC#4 rest
  simp [decode, encode, decodeCommand, h1, h2]

theorem RoundTrip.reservedOpD (rest : BitVec 28) : RoundTrip.Statement (.reservedOpD rest) := by
  intro dummy _
  obtain ⟨h1, h2⟩ := reserved_fields 0xD#4 rest
  simp [decode, encode, decodeCommand, h1, h2]

theorem RoundTrip.reservedOpE (rest : BitVec 28) : RoundTrip.Statement (.reservedOpE rest) := by
  intro dummy _
  obtain ⟨h1, h2⟩ := reserved_fields 0xE#4 rest
  simp [decode, encode, decodeCommand, h1, h2]

theorem RoundTrip.reservedOpF (rest : BitVec 28) : RoundTrip.Statement (.reservedOpF rest) := by
  intro dummy _
  obtain ⟨h1, h2⟩ := reserved_fields 0xF#4 rest
  simp [decode, encode, decodeCommand, h1, h2]

theorem RoundTrip.cmdW (v : Word) : RoundTrip.Statement (.cmdW v) := by
  intro dummy _
  rfl

theorem RoundTrip.lenW (v : Word) : RoundTrip.Statement (.lenW v) := by
  intro dummy _
  rfl

theorem RoundTrip.statusW (v : Word) : RoundTrip.Statement (.statusW v) := by
  intro dummy _
  rfl

theorem RoundTrip.txdataW (v : Word) : RoundTrip.Statement (.txdataW v) := by
  intro dummy _
  rfl

theorem RoundTrip.lenR : RoundTrip.Statement .lenR := by
  intro dummy _
  rfl

theorem RoundTrip.statusR : RoundTrip.Statement .statusR := by
  intro dummy _
  rfl

theorem RoundTrip.rxdataR : RoundTrip.Statement .rxdataR := by
  intro dummy _
  rfl

theorem RoundTrip.selR : RoundTrip.Statement .selR := by
  intro dummy _
  rfl

theorem RoundTrip.crcR : RoundTrip.Statement .crcR := by
  intro dummy _
  rfl

theorem RoundTrip.ignored (a : IgnoredAccess) : RoundTrip.Statement (.ignored a) := by
  intro dummy _
  cases a <;> rfl

theorem RoundTrip.read (off : BitVec 24) (len : Word) : RoundTrip.Statement (.read off len) := by
  intro dummy _
  simp [decode, encode, decodeFrame, bytes3, address3, counted, bytes3_join, len.isLt]

theorem RoundTrip.read4 (off len : Word) : RoundTrip.Statement (.read4 off len) := by
  intro dummy _
  simp [decode, encode, decodeFrame, bytes4, address4, counted, bytes4_join, len.isLt]

theorem RoundTrip.pp (off : BitVec 24) (src : List Byte) : RoundTrip.Statement (.pp off src) := by
  intro dummy h
  have h : src.length < 2 ^ 32 := by simpa [Instr.wf] using h
  simp [decode, encode, decodeFrame, bytes3, address3, counted, bytes3_join]; exact h

theorem RoundTrip.pp4 (off : Word) (src : List Byte) : RoundTrip.Statement (.pp4 off src) := by
  intro dummy h
  have h : src.length < 2 ^ 32 := by simp [Instr.wf] at h; exact h.2
  simp [decode, encode, decodeFrame, bytes4, address4, counted, bytes4_join]; exact h

theorem RoundTrip.se (off : BitVec 24) : RoundTrip.Statement (.se off) := by
  intro dummy _
  simp [decode, encode, decodeFrame, bytes3, address3, exactly, bytes3_join]

theorem RoundTrip.se4 (off : Word) : RoundTrip.Statement (.se4 off) := by
  intro dummy _
  simp [decode, encode, decodeFrame, bytes4, address4, exactly, bytes4_join]

theorem RoundTrip.wren : RoundTrip.Statement .wren := by
  intro dummy _
  rfl

theorem RoundTrip.wrdi : RoundTrip.Statement .wrdi := by
  intro dummy _
  rfl

theorem RoundTrip.rdsr1 : RoundTrip.Statement .rdsr1 := by
  intro dummy _
  rfl

theorem RoundTrip.rdid (n : Word) : RoundTrip.Statement (.rdid n) := by
  intro dummy _
  simp [decode, encode, decodeFrame, counted, n.isLt]

end Sys2Proof.Laws
end

