-- ==== Sys2Proof/Laws/Segment.lean ====
section
/-! SUPPORT. The record of a running segment, operation by operation, and the arithmetic of the burst sizes. -/

namespace Sys2Proof.Machine

theorem SegInv.of_idle {t : State} (h : t.phase = .idle) : SegInv t := by
  constructor <;> exact fun e => absurd h e

theorem SegInv.of_eq {s t : State} (h : SegInv s) (hcfg : t.cfg = s.cfg) (hmask : t.ssmask = s.ssmask)
    (hsel : t.ctrlSel = s.ctrlSel) (h0 : t.core0 = s.core0) (h1 : t.core1 = s.core1) (hp : t.phase = s.phase)
    (hsg : t.seg = s.seg) (htx : t.txCount = s.txCount) (hrx : t.rxCount = s.rxCount) (htr : t.trace = s.trace)
    (hh : t.hist = s.hist) (hc : t.phase ≠ .idle → t.crc = s.crc) : SegInv t := by
  have e1 : t.sel = s.sel := by simp [State.sel, State.ctl, hsel, h0, h1]
  have e2 : t.line = s.line := by simp [State.line, hmask]
  have e3 : t.segEvents = s.segEvents := by simp [State.segEvents, htr, hh]
  obtain ⟨a1, a2, a3, a4, a5, a6, a7, a8⟩ := h
  refine ⟨?_, ?_, ?_, ?_, ?_, ?_, ?_, ?_⟩
  · rw [hp, hh, htr]; exact a1
  · rw [hp, e3, hsel, e2]; exact a2
  · rw [hp, hh, e1, e3]; exact a3
  · rw [hp, hsg, hh, e3, e1]; exact a4
  · rw [hp, hsg, e3, e1, hcfg]; exact a5
  · rw [hp, hh, hrx, hsg, htx]; exact a6
  · intro hne; rw [hc hne, hsg, hh]; exact a7 (hp ▸ hne)
  · rw [hp, hsg, hh, htx]; exact a8

theorem SegInv.acceptSegment {s : State} (h : Inv s) (hi : s.phase = .idle) (t r l c : Bool) :
    SegInv (acceptSegment t r l c s) := by
  obtain ⟨q1, q2, q3, q4⟩ := h.idle hi
  have hb : (Machine.acceptSegment t r l c s).hist = ⟨(Machine.acceptSegment t r l c s).trace.length, s.crc, [], [], []⟩ := rfl
  have e : (Machine.acceptSegment t r l c s).segEvents = [] := by
    simp [State.segEvents, hb]
  have es : (Machine.acceptSegment t r l c s).sel.rxf = [] ∧ (Machine.acceptSegment t r l c s).sel.txf = [] ∧ (Machine.acceptSegment t r l c s).sel.shBusy = false := by
    have : (Machine.acceptSegment t r l c s).sel = (assertCs s).sel := rfl
    rw [this, assertCs_sel]; split <;> simp_all
  have ec : (Machine.acceptSegment t r l c s).crc = s.crc := by
    exact (assertCs_fields s).2.2.2.2
  obtain ⟨es1, es2, es3⟩ := es
  refine ⟨?_, ?_, ?_, ?_, ?_, ?_, ?_, ?_⟩
  · intro _; rw [hb]
  · intro _; rw [e]; simp
  · intro _; rw [e, hb, es1]; rfl
  · intro _ _; rw [e, hb, es2, Ctl.shifting, es3]; rfl
  · intro _ _; rw [e, Ctl.shifting, es3]; simp [mosiBytes]
  · intro _; rw [hb]; exact ⟨rfl, fun _ => rfl⟩
  · intro _; rw [ec, hb]; simp [crcFold]
  · intro _ ht; rw [hb]
    have : (Machine.acceptSegment t r l c s).txCount = 0 := rfl
    rw [this]
    refine ⟨?_, rfl⟩
    simp [burstSizes]
    intro h; rw [← h]; decide

theorem SegInv.txdataWrite {s : State} (h : SegInv s) (v : Word) : SegInv (txdataWrite v s) := by
  unfold Machine.txdataWrite
  split
  · rename_i hr
    simp only [State.txrdy, Bool.and_eq_true, decide_eq_true_eq] at hr
    obtain ⟨⟨⟨hp, ht⟩, hl⟩, hf⟩ := hr
    have hp' : s.phase ≠ .idle := by simp [hp]
    obtain ⟨a1, a2, a3, a4, a5, a6, a7, a8⟩ := h
    have e : State.sel { s.setSel (s.sel.pushTx (lowByte v)) with
      txCount := s.txCount + 1
      hist := { s.hist with fed := s.hist.fed ++ [lowByte v] } } = s.sel.pushTx (lowByte v) := State.setSel_sel s _
    refine ⟨a1, a2, ?_, ?_, ?_, ?_, ?_, ?_⟩
    · intro _; rw [e]; exact a3 hp'
    · intro _ _; rw [e]; have := a4 hp' ht
      simp only [Ctl.pushTx]
      change s.hist.fed ++ [lowByte v] = mosiBytes s.segEvents ++ s.sel.shifting ++ _
      rw [this]; simp [Ctl.shifting]
    · intro _ hf; exact absurd ht (by change s.seg.txp = false at hf; simp [hf])
    · intro _; refine ⟨(a6 hp').1, fun _ => ?_⟩
      simp [(a6 hp').2 ht]
    · exact a7
    · intro _ hf; exact absurd ht (by change s.seg.txp = false at hf; simp [hf])
  · apply h.of_eq <;> first | rfl | exact fun _ => rfl

theorem SegInv.takeByte {s : State} (h : SegInv s) (b : Byte) (rest : List Byte) (hr : s.sel.rxf = b :: rest) (hp : s.phase = .run) :
    SegInv (takeByte b rest s) := by
  have hp' : s.phase ≠ .idle := by simp [hp]
  have e : (Machine.takeByte b rest s).sel = { s.sel with rxf := rest } := State.setSel_sel s _
  obtain ⟨a1, a2, a3, a4, a5, a6, a7, a8⟩ := h
  refine ⟨a1, a2, ?_, ?_, ?_, ?_, ?_, a8⟩
  · intro _; rw [e]
    change (s.hist.taken ++ [b]) ++ rest = misoBytes s.segEvents
    rw [← a3 hp', hr]; simp
  · intro _ ht; rw [e]; exact a4 hp' ht
  · intro _ ht; rw [e]; exact a5 hp' ht
  · intro _; refine ⟨?_, (a6 hp').2⟩
    change (s.hist.taken ++ [b]).length = s.rxCount + 1
    simp [(a6 hp').1]
  · intro _
    change (if s.seg.crcen then crc16Upd s.crc b else s.crc) = if s.seg.crcen then crcFold s.hist.crc0 (s.hist.taken ++ [b]) else s.hist.crc0
    rw [a7 hp']; split <;> simp [crcFold]

theorem burstSizes_lt (len n : Nat) (hn : n < len) : burstSizes len n = List.replicate (n / 240) 240 := by
  unfold burstSizes
  rw [if_neg (fun h => by omega), List.append_nil]
  rfl

theorem burstSizes_full (len : Nat) : burstSizes len len = List.replicate (len / 240) 240 ++ if len % 240 = 0 then [] else [len % 240] := by
  unfold burstSizes
  by_cases h : len % 240 = 0
  · rw [if_neg (fun hh => hh.2 h), if_pos h]; rfl
  · rw [if_pos ⟨rfl, h⟩, if_neg h]; rfl

theorem burstSizes_step (len n : Nat) (hn : n < len) (hm : n % 240 = 0) :
    burstSizes len n ++ [min (len - n) 240] = burstSizes len (n + min (len - n) 240) := by
  rw [burstSizes_lt _ _ hn]
  by_cases hc : 240 < len - n
  · have h2 : min (len - n) 240 = 240 := by omega
    have h4 : (n + 240) / 240 = n / 240 + 1 := by omega
    rw [h2, burstSizes_lt _ _ (by omega), h4, List.replicate_succ']
  · have h2 : min (len - n) 240 = len - n := by omega
    have h3 : n + (len - n) = len := by omega
    rw [h2, h3, burstSizes_full]
    by_cases he : len - n = 240
    · have h4 : len / 240 = n / 240 + 1 := by omega
      rw [if_pos (by omega), he, h4, List.replicate_succ']; simp
    · have h4 : len / 240 = n / 240 := by omega
      rw [if_neg (by omega), h4]
      have : len % 240 = len - n := by omega
      rw [this]

/-- Between bursts the count is a multiple of 240. -/
theorem burstSizes_sum (len n : Nat) (h : (burstSizes len n).sum = n) (hn : n < len) : n % 240 = 0 := by
  rw [burstSizes_lt _ _ hn] at h
  simp at h; omega

theorem mosi_append (a b : List BusEvent) : mosiBytes (a ++ b) = mosiBytes a ++ mosiBytes b := by simp [mosiBytes]
theorem miso_append (a b : List BusEvent) : misoBytes (a ++ b) = misoBytes a ++ misoBytes b := by simp [misoBytes]

theorem SegInv.blockStep {s : State} (hi : Inv s) (h : SegInv s) (b : BlockStep) : SegInv (blockStep b s) := by
  unfold Machine.blockStep
  split
  swap
  · exact h
  rename_i he
  have hc := hi.core
  obtain ⟨a1, a2, a3, a4, a5, a6, a7, a8⟩ := id h
  cases b
  · simp only [enabled, Bool.and_eq_true, decide_eq_true_eq, Bool.not_eq_true'] at he
    obtain ⟨⟨⟨hp, ht⟩, hl⟩, hx⟩ := he
    have hp' : s.phase ≠ .idle := by simp [hp]
    have e : (issueBurst s).sel = { s.sel with dummyPending := burstSize s } := State.setSel_sel s _
    refine ⟨a1, a2, ?_, ?_, ?_, ?_, a7, ?_⟩
    · intro _; change _ ++ (issueBurst s).sel.rxf = _; rw [e]; exact a3 hp'
    · intro _ hf; exact absurd ht (by change s.seg.txp = true at hf; simp [hf])
    · intro _ _; change ∀ b ∈ mosiBytes _ ++ (issueBurst s).sel.shifting, _; rw [e]; exact a5 hp' ht
    · intro _; exact ⟨(a6 hp').1, fun hf => absurd ht (by change s.seg.txp = true at hf; simp [hf])⟩
    · intro _ _
      obtain ⟨b1, b2⟩ := a8 hp' ht
      change s.hist.bursts ++ [burstSize s] = burstSizes s.seg.len.toNat (s.txCount + burstSize s) ∧ (s.hist.bursts ++ [burstSize s]).sum = s.txCount + burstSize s
      constructor
      · rw [b1]; exact burstSizes_step _ _ hl (burstSizes_sum _ _ (by rw [← b1]; exact b2) hl)
      · simp [b2]
  · simp only [stepEffect, discardByte]
    split
    · refine h.takeByte _ _ ‹_› ?_
      simp only [enabled, Bool.and_eq_true, decide_eq_true_eq] at he; exact he.1.1
    · exact h
  · simp only [enabled, Bool.and_eq_true, decide_eq_true_eq] at he
    obtain ⟨⟨hp, ht⟩, hr⟩ := he
    have hp' : s.phase ≠ .idle := by simp [hp]
    exact ⟨fun _ => a1 hp', fun _ => a2 hp', fun _ => a3 hp', fun _ => a4 hp', fun _ => a5 hp', fun _ => a6 hp', fun _ => a7 hp', fun _ => a8 hp'⟩
  · refine SegInv.of_idle ?_
    simp only [stepEffect, leaveTail]; split <;> rfl
  · simp only [enabled, State.rxRoom, Bool.and_eq_true, Bool.not_eq_true', Bool.or_eq_true] at he
    obtain ⟨⟨hb, hx⟩, hr⟩ := he
    simp only [stepEffect, startByte]
    split
    · rename_i b rest hxx
      have hp' : s.phase ≠ .idle := hc.not_idle (by simp [Ctl.Quiet, hxx])
      have e : (s.setSel { s.sel with txf := rest, shMosi := b, shBusy := true }).sel = _ := State.setSel_sel s _
      refine ⟨a1, a2, ?_, ?_, ?_, a6, a7, a8⟩
      · intro _; rw [e]; exact a3 hp'
      · intro _ ht; rw [e]; have := a4 hp' ht
        rw [hxx, Ctl.shifting, hb] at this
        change s.hist.fed = _
        rw [this]; simp [Ctl.shifting]; rfl
      · intro _ ht; have := hc.source hp'; change s.seg.txp = false at ht; rw [ht] at this; simp [hxx] at this
    · rename_i hxx
      have hp' : s.phase ≠ .idle := hc.not_idle (by simp [Ctl.Quiet, hxx] at hx ⊢; omega)
      have e : (s.setSel { s.sel with dummyPending := s.sel.dummyPending - 1, shMosi := s.cfg.dummyByte, shBusy := true }).sel = _ := State.setSel_sel s _
      refine ⟨a1, a2, ?_, ?_, ?_, a6, a7, a8⟩
      · intro _; rw [e]; exact a3 hp'
      · intro _ ht; have := hc.source hp'; change s.seg.txp = true at ht; rw [ht] at this
        simp [hxx] at hx; simp at this; omega
      · intro _ ht; rw [e]; have := a5 hp' ht
        rw [Ctl.shifting, hb] at this
        change ∀ b ∈ mosiBytes s.segEvents ++ _, b = s.cfg.dummyByte
        intro b hb; simp [Ctl.shifting] at hb this; rcases hb with hb | hb
        · exact this b hb
        · exact hb
  · simp only [enabled] at he
    have hp' : s.phase ≠ .idle := hc.not_idle (by simp [Ctl.Quiet, he])
    have hf : full s.cfg.rxd s.sel.rxf = false := by
      have := hc.rxCap; simp only [Ctl.inShifter, he, if_true] at this
      simp only [full, decide_eq_false_iff_not]; omega
    have e : (endByte s).sel = { s.sel with rxf := s.sel.rxf ++ [drawMiso s], shBusy := false } := by
      refine (State.setSel_sel s _).trans ?_; rw [pushRx, hf]; rfl
    have ev : (endByte s).segEvents = s.segEvents ++ [.byte s.ctrlSel s.line s.sel.shMosi (drawMiso s)] := by
      change (s.trace ++ [_]).drop s.hist.base = _
      rw [List.drop_append_of_le_length (a1 hp')]; rfl
    simp only [stepEffect]
    refine ⟨?_, ?_, ?_, ?_, ?_, a6, a7, a8⟩
    · intro _; have := a1 hp'; change s.hist.base ≤ (s.trace ++ [_]).length; simp; omega
    · intro _ x hx; rw [ev] at hx; simp at hx; rcases hx with hx | hx
      · exact a2 hp' x hx
      · exact ⟨_, _, hx⟩
    · intro _; rw [e, ev, miso_append, ← a3 hp']; simp [misoBytes]; rfl
    · intro _ ht; rw [e, ev, mosi_append]; have := a4 hp' ht
      rw [Ctl.shifting, he] at this
      change s.hist.fed = _
      rw [this]; simp [mosiBytes, Ctl.shifting]
    · intro _ ht; rw [e, ev, mosi_append]; have := a5 hp' ht
      rw [Ctl.shifting, he] at this
      change ∀ b ∈ _, b = s.cfg.dummyByte
      simpa [mosiBytes, Ctl.shifting] using this

end Sys2Proof.Machine
end

