-- ==== Sys2Proof/Tests/Slice0.lean ====
section
/-! SUPPORT. Tests of the model against the words, tables and vectors of the spec, and, for each statement with
hypotheses, a concrete state that meets them. Expected values are the spec's (the comment over each group says
which) or worked out by hand from the rule named. -/

namespace Sys2Proof.Tests

open Sys2Proof.Machine

/-! ### Well-formedness: each check refuses an ill-formed term -/

/-- R84, R94: SSMASK = 0 is not one-hot. -/
theorem test_wf_select_no_line : (Instr.select 0#1 0x00#8).wf = false := by decide

/-- R84, L2.1: SSMASK = 0x03 is not one-hot. -/
theorem test_wf_select_two_lines : (Instr.select 0#1 0x03#8).wf = false := by decide

theorem test_wf_select_one_line : (Instr.select 1#1 0x80#8).wf = true := by decide

/-- R180, L1.8: the 4-byte form starts at 0x01000000. -/
theorem test_wf_read4_low_offset :
    (Instr.read4 0x00FFFFFF#32 1#32).wf = false ∧ (Instr.read4 0x01000000#32 1#32).wf = true := by decide

theorem test_wf_pp4_low_offset :
    (Instr.pp4 0x00FFFFFF#32 []).wf = false ∧ (Instr.pp4 0x01000000#32 []).wf = true := by decide

theorem test_wf_se4_low_offset :
    (Instr.se4 0x00FFFFFF#32).wf = false ∧ (Instr.se4 0x01000000#32).wf = true := by decide

/-- R142, R187: a payload longer than LEN can hold. -/
theorem test_wf_pp_too_long (off : BitVec 24) (src : List Byte) (h : 2 ^ 32 ≤ src.length) :
    (Instr.pp off src).wf = false := decide_eq_false (Nat.not_lt.mpr h)

theorem test_wf_pp4_too_long (off : Word) (src : List Byte) (h : 2 ^ 32 ≤ src.length) :
    (Instr.pp4 off src).wf = false := by
  rw [Instr.wf, decide_eq_false (Nat.not_lt.mpr h), Bool.and_false]

/-! ### Decoding: one word or frame for each constructor, written out from R81, R89, R90 and R91 -/

/-- R81 format X, all fields clear but OP, then each flag alone in its own bit; L2.1: bit 8 and bit 31 are illegal. -/
theorem test_decode_xfer :
    decode (.command 0b00000000000000000000000000000001#32) = .ok (.xfer false false false false) ∧
    decode (.command 0b00000000000000000000000000010001#32) = .ok (.xfer true false false false) ∧
    decode (.command 0b00000000000000000000000000100001#32) = .ok (.xfer false true false false) ∧
    decode (.command 0b00000000000000000000000001000001#32) = .ok (.xfer false false true false) ∧
    decode (.command 0b00000000000000000000000010000001#32) = .ok (.xfer false false false true) ∧
    decode (.command 0x00000101#32) = .error .illegalCommand ∧
    decode (.command 0x80000011#32) = .error .illegalCommand := by decide

/-- R81 format S. -/
theorem test_decode_select :
    decode (.command 0b00000000000000001000000000010010#32) = .ok (.select 1#1 0x80#8) ∧
    decode (.command 0b00000000000000000000010000000010#32) = .ok (.select 0#1 0x04#8) ∧
    decode (.command 0x00000122#32) = .error .illegalCommand ∧
    decode (.command 0x00010102#32) = .error .illegalCommand := by decide

/-- R81 format I. -/
theorem test_decode_crcinit :
    decode (.command 0b00000000000000000000000000000011#32) = .ok .crcinit ∧
    decode (.command 0x00000013#32) = .error .illegalCommand := by decide

/-- R81 format F. -/
theorem test_decode_crcfeed :
    decode (.command 0b00000000000000001101111000000100#32) = .ok (.crcfeed 0xDE#8) ∧
    decode (.command 0x00000014#32) = .error .illegalCommand ∧
    decode (.command 0x00010004#32) = .error .illegalCommand := by decide

/-- R82: the reserved OPs, one word each. -/
theorem test_decode_reserved_low :
    decode (.command 0b00000000000000000000000000000000#32) = .ok (.reservedOp0 0#28) ∧
    decode (.command 0b00000000000000000000000000000101#32) = .ok (.reservedOp5 0#28) ∧
    decode (.command 0b00000000000000000000000000000110#32) = .ok (.reservedOp6 0#28) ∧
    decode (.command 0b00000000000000000000000000000111#32) = .ok (.reservedOp7 0#28) ∧
    decode (.command 0b00000000000000000000000000001000#32) = .ok (.reservedOp8 0#28) ∧
    decode (.command 0b00000000000000000000000000001001#32) = .ok (.reservedOp9 0#28) := by decide

theorem test_decode_reserved_high :
    decode (.command 0b00000000000000000000000000001010#32) = .ok (.reservedOpA 0#28) ∧
    decode (.command 0b00000000000000000000000000001011#32) = .ok (.reservedOpB 0#28) ∧
    decode (.command 0b00000000000000000000000000001100#32) = .ok (.reservedOpC 0#28) ∧
    decode (.command 0b00000000000000000000000000001101#32) = .ok (.reservedOpD 0#28) ∧
    decode (.command 0b00000000000000000000000000001110#32) = .ok (.reservedOpE 0#28) ∧
    decode (.command 0b10000000000000000000000000011111#32) = .ok (.reservedOpF 0x8000001#28) := by decide

/-- R89: the accesses, by offset and direction. -/
theorem test_decode_accesses :
    decode (.write 0x00 4 7#32) = .ok (.cmdW 7#32) ∧ decode (.write 0x04 4 7#32) = .ok (.lenW 7#32) ∧
    decode (.read 0x04 4) = .ok .lenR ∧ decode (.read 0x08 4) = .ok .statusR ∧
    decode (.write 0x08 4 7#32) = .ok (.statusW 7#32) ∧ decode (.write 0x0C 4 7#32) = .ok (.txdataW 7#32) ∧
    decode (.read 0x10 4) = .ok .rxdataR ∧ decode (.read 0x14 4) = .ok .selR ∧ decode (.read 0x18 4) = .ok .crcR := by
  decide

/-- R147: the accesses that do nothing. -/
theorem test_decode_ignored :
    decode (.read 0x00 4) = .ok (.ignored .readCmd) ∧ decode (.read 0x0C 4) = .ok (.ignored .readTxdata) ∧
    decode (.read 0x1C 4) = .ok (.ignored .readReserved) ∧
    decode (.write 0x10 4 5#32) = .ok (.ignored (.writeRxdata 5#32)) ∧
    decode (.write 0x14 4 5#32) = .ok (.ignored (.writeSel 5#32)) ∧
    decode (.write 0x18 4 5#32) = .ok (.ignored (.writeCrc 5#32)) ∧
    decode (.write 0x1C 4 5#32) = .ok (.ignored (.writeReserved 5#32)) := by decide

/-- R62: misaligned, narrow; R60: outside the window. -/
theorem test_decode_rejected_accesses :
    decode (.read 0x09 4) = .error .misaligned ∧ decode (.write 0x08 2 0#32) = .error .notWord ∧
    decode (.read 0x20 4) = .error .outsideWindow := by decide

/-- R90, R91, L1.3, L2.6: frames with a 3-byte address. -/
theorem test_decode_three_byte_frames :
    decode (.frame [0x03#8, 0xFF#8, 0xFF#8, 0xFE#8, 0#8, 0#8, 0#8, 0#8]) = .ok (.read 0xFFFFFE#24 4#32) ∧
    decode (.frame [0x02#8, 0x01#8, 0x00#8, 0x00#8, 0xAA#8]) = .ok (.pp 0x010000#24 [0xAA#8]) ∧
    decode (.frame [0xD8#8, 0x00#8, 0x01#8, 0x02#8]) = .ok (.se 0x000102#24) := by decide

/-- R90, R91, L1.3, L2.6: frames with a 4-byte address. -/
theorem test_decode_four_byte_frames :
    decode (.frame [0x13#8, 0x01#8, 0x00#8, 0x00#8, 0x00#8, 0#8]) = .ok (.read4 0x01000000#32 1#32) ∧
    decode (.frame [0x12#8, 0x12#8, 0x34#8, 0x56#8, 0x78#8, 0xAA#8, 0xBB#8]) =
      .ok (.pp4 0x12345678#32 [0xAA#8, 0xBB#8]) ∧
    decode (.frame [0xDC#8, 0x01#8, 0x00#8, 0x00#8, 0x00#8]) = .ok (.se4 0x01000000#32) := by decide

/-- R90: frames without an address. -/
theorem test_decode_short_frames :
    decode (.frame [0x06#8]) = .ok .wren ∧ decode (.frame [0x04#8]) = .ok .wrdi ∧
    decode (.frame [0x05#8, 0xA5#8]) = .ok .rdsr1 ∧
    decode (.frame [0x9F#8, 0#8, 0#8, 0#8]) = .ok (.rdid 3#32) := by decide

/-- R90: no command of the table; a frame that ends in its address; a byte too many. -/
theorem test_decode_rejected_frames :
    decode (.frame [0xAB#8]) = .error .unknownOpcode ∧ decode (.frame [0x03#8, 0#8]) = .error .shortAddress ∧
    decode (.frame [0x06#8, 0#8]) = .error .badDataPhase ∧ decode (.frame []) = .error .emptyFrame := by decide

/-- R95: the words the pseudo-instructions use. -/
theorem test_xfer_words :
    xferWord false false true false = 0x00000041#32 ∧ xferWord true false true false = 0x00000051#32 ∧
    xferWord false true true false = 0x00000061#32 ∧ xferWord true true true false = 0x00000071#32 ∧
    xferWord false false true true = 0x000000C1#32 ∧ xferWord true true true true = 0x000000F1#32 ∧
    selectWord 1#1 0x01#8 = 0x00000112#32 ∧ crcfeedWord 0xDE#8 = 0x0000DE04#32 := by decide

/-! ### States for the tests -/

/-- Parameters with FIFOs of one byte (L2.4's step table). -/
def tiny : Config.Params :=
  { txd := 1, rxd := 1, ncs := 8, dummyByte := 0xA5#8, base := 0x1000, rxFull := .stall, badAccess := .refuse }

/-- The machine after reset, both cores initialised, with LEN = n. -/
def idleWith (n : Word) : State := { State.resetWith tiny true true with len := n }

/-- A segment just accepted from reset. -/
def accepted (txp rxp last crcen : Bool) (n : Word) : State := acceptSegment txp rxp last crcen (idleWith n)

/-- The outcome as a state; the state itself where the machine stopped. -/
def after (o : Host.Outcome State Fault Refusal) (s : State) : State :=
  match o with
  | .next t => t
  | .fault _ => s
  | .refused _ => s

/-- `i` executed. -/
def did (i : Instr) (s : State) : State := after (exec i s) s

/-! ### The CRC unit (L2.5) -/

set_option maxRecDepth 8000 in
theorem test_crc_deadbeef : crc16 [0xDE#8, 0xAD#8, 0xBE#8, 0xEF#8] = 0x4097#16 := by decide

set_option maxRecDepth 8000 in
theorem test_crc_check_value :
    crc16 [0x31#8, 0x32#8, 0x33#8, 0x34#8, 0x35#8, 0x36#8, 0x37#8, 0x38#8, 0x39#8] = 0x29B1#16 := by decide

/-! ### One step of each instruction, against L2.2 to L2.5 and the rules -/

/-- L2.4: LEN 4, `XFER tx`: STATUS 0x27, and CsLow on line 0 of core 0. -/
theorem test_xfer_accepted :
    (did (.xfer true false false false) (idleWith 4#32)).statusWord = 0x00000027#32 ∧
    (did (.xfer true false false false) (idleWith 4#32)).trace = [.csLow 0#1 0] := by decide

/-- L2.3: INIT_DONE of the selected core 0: STATUS 0x2010 with core 1 selected, and no bus event. -/
theorem test_xfer_not_initialised :
    (did (.xfer true false false false) { State.resetWith tiny true false with ctrlSel := 1#1 }).statusWord =
      0x00002010#32 ∧
    (did (.xfer true false false false) { State.resetWith tiny true false with ctrlSel := 1#1 }).trace = [] := by
  decide

/-- L2.2: `SELECT 1, 0x01`: SEL 0x101, STATUS 0x30. -/
theorem test_select :
    (did (.select 1#1 0x01#8) (idleWith 0#32)).selWord = 0x00000101#32 ∧
    (did (.select 1#1 0x01#8) (idleWith 0#32)).statusWord = 0x00000030#32 := by decide

/-- L2.3: SS = 1 after `XFER` LEN 0 without LAST: `SELECT` gives STATUS 0x1022, an illegal one 0x0122. -/
theorem test_select_refused :
    (did (.select 1#1 0x01#8) (blockStep .leaveTail (blockStep .endRun (accepted false false false false 0#32)))).statusWord =
      0x00001022#32 ∧
    (did (.select 0#1 0x03#8) (blockStep .leaveTail (blockStep .endRun (accepted false false false false 0#32)))).statusWord =
      0x00000122#32 := by decide

/-- R162: from another CRC state. -/
theorem test_crcinit : (did .crcinit { idleWith 0#32 with crc := 0x4097#16 }).crc = 0xFFFF#16 := by decide

/-- L2.5: 0xCB43 with 0xAD gives 0x4F60; while a segment runs ERR_BUSY and the CRC unchanged (L2.3). -/
theorem test_crcfeed :
    (did (.crcfeed 0xAD#8) { idleWith 0#32 with crc := 0xCB43#16 }).crc = 0x4F60#16 ∧
    (did (.crcfeed 0xAD#8) (accepted true false false false 4#32)).crc = 0xFFFF#16 ∧
    (did (.crcfeed 0xAD#8) (accepted true false false false 4#32)).statusWord = 0x00000227#32 := by decide

/-- L2.3: `WR CMD, 0` in IDLE: 0x0120; in RUN: 0x0227. -/
theorem test_reserved_op :
    (did (.reservedOp0 0#28) (idleWith 0#32)).statusWord = 0x00000120#32 ∧
    (did (.reservedOp0 0#28) (accepted true false false false 4#32)).statusWord = 0x00000227#32 := by decide

/-- R87: the same of the other reserved OPs. -/
theorem test_reserved_ops_set_err_cmd :
    ∀ i, i ∈ [Instr.reservedOp5 1#28, .reservedOp6 0#28, .reservedOp7 0#28, .reservedOp8 0#28, .reservedOp9 0#28,
      .reservedOpA 0#28, .reservedOpB 0#28, .reservedOpC 0#28, .reservedOpD 0#28, .reservedOpE 0#28,
      .reservedOpF 0#28] → (did i (idleWith 0#32)).statusWord = 0x00000120#32 := by decide

/-- R94: CMD dispatches: `0xCB43` fed with 0xAD by its word; L2.1: 0x402 is illegal with NCS 2. -/
theorem test_cmdW :
    (did (.cmdW 0x0000AD04#32) { idleWith 0#32 with crc := 0xCB43#16 }).crc = 0x4F60#16 ∧
    (did (.cmdW 0x00000402#32) { idleWith 0#32 with cfg := { tiny with ncs := 2 } }).statusWord = 0x00000120#32 ∧
    (did (.cmdW 0x00000402#32) { idleWith 0#32 with cfg := { tiny with ncs := 3 } }).selWord = 0x00000400#32 := by
  decide

/-- L2.2, L2.4 (LEN latch): LEN takes every value; a running segment keeps its own. -/
theorem test_lenW :
    (did (.lenW 0xFFFFFFFF#32) (idleWith 0#32)).len = 0xFFFFFFFF#32 ∧
    (did (.lenW 9#32) (accepted true false true false 2#32)).seg.len = 2#32 := by decide

theorem test_lenR : (did .lenR (idleWith 0x12345678#32)).lastRead = 0x12345678#32 := by decide

/-- L2.2: STATUS after reset. -/
theorem test_statusR :
    (did .statusR (State.resetWith tiny true true)).lastRead = 0x00000020#32 ∧
    (did .statusR (State.resetWith tiny false true)).lastRead = 0x00000000#32 := by decide

/-- L2.2: ERR_TXW and ERR_RXR, then `WR STATUS, 0x400`: 0x820; bits 7:0 are not writable. -/
theorem test_statusW :
    (did (.statusW 0x00000400#32) (did .rxdataR (did (.txdataW 5#32) (idleWith 0#32)))).statusWord = 0x00000820#32 ∧
    (did (.statusW 0x000000FF#32) (did .rxdataR (idleWith 0#32))).statusWord = 0x00000820#32 := by decide

/-- L2.4 step 1: the byte enters the TX FIFO, which is then full. -/
theorem test_txdataW :
    (did (.txdataW 0xFFFFFFAA#32) (accepted true true true false 2#32)).core0.txf = [0xAA#8] ∧
    (did (.txdataW 0xFFFFFFAA#32) (accepted true true true false 2#32)).statusWord = 0x00000023#32 := by decide

/-- L2.2: `WR TXDATA, 5` in IDLE: STATUS 0x420. -/
theorem test_txdataW_refused : (did (.txdataW 5#32) (idleWith 0#32)).statusWord = 0x00000420#32 := by decide

/-- A segment with CRCEN = 1 that has received 0xDE. -/
def received : State :=
  blockStep .shiftEnd (blockStep .shiftStart (blockStep .dummyBurst
    { accepted false true true true 2#32 with miso := [0xDE#8] }))

/-- L2.4: STATUS 0x2B once a byte is there; the read returns it and the tap folds it (L2.5: DE gives 0xCB43). -/
theorem test_rxdataR :
    received.statusWord = 0x0000002B#32 ∧ (did .rxdataR received).lastRead = 0x000000DE#32 ∧
    (did .rxdataR received).crc = 0xCB43#16 := by decide

/-- L2.2: `RD RXDATA` in IDLE: 0 and STATUS 0x820. -/
theorem test_rxdataR_refused :
    (did .rxdataR (idleWith 0#32)).lastRead = 0#32 ∧ (did .rxdataR (idleWith 0#32)).statusWord = 0x00000820#32 := by
  decide

/-- L2.2: SEL and CRC after reset. -/
theorem test_selR : (did .selR (idleWith 0#32)).lastRead = 0x00000100#32 := by decide

theorem test_crcR : (did .crcR (idleWith 0#32)).lastRead = 0x0000FFFF#32 := by decide

/-- L2.2: reads of CMD, TXDATA and 0x1C give 0 without an error; writes of RXDATA, SEL, CRC and 0x1C do nothing. -/
theorem test_ignored :
    (did (.ignored .readCmd) (idleWith 0#32)).reads = [0#32] ∧
    (did (.ignored .readReserved) (idleWith 0#32)).err = 0#6 ∧
    did (.ignored (.writeSel 1#32)) (idleWith 0#32) = idleWith 0#32 ∧
    did (.ignored (.writeCrc 0#32)) (idleWith 0#32) = idleWith 0#32 := by decide

/-- R182: a header and the data phase in one frame. -/
theorem test_read :
    (did (.read 0xFFFFFE#24 4#32) (idleWith 0#32)).client =
      [.seg ⟨true, false, false, false⟩ 4#32 [0x03#8, 0xFF#8, 0xFF#8, 0xFE#8],
        .seg ⟨false, true, true, false⟩ 4#32 []] := by decide

theorem test_read4 :
    (did (.read4 0x01000000#32 4#32) (idleWith 0#32)).client =
      [.seg ⟨true, false, false, false⟩ 5#32 [0x13#8, 0x01#8, 0x00#8, 0x00#8, 0x00#8],
        .seg ⟨false, true, true, false⟩ 4#32 []] := by decide

/-- R187, L1.1. -/
theorem test_pp :
    (did (.pp 0#24 [0xDE#8, 0xAD#8]) (idleWith 0#32)).client =
      [.seg ⟨true, false, false, false⟩ 4#32 [0x02#8, 0x00#8, 0x00#8, 0x00#8],
        .seg ⟨true, false, true, false⟩ 2#32 [0xDE#8, 0xAD#8], .waitIdle] := by decide

/-- R187, L3.6. -/
theorem test_pp4 :
    (did (.pp4 0x12345678#32 [0xAA#8, 0xBB#8]) (idleWith 0#32)).client =
      [.seg ⟨true, false, false, false⟩ 5#32 [0x12#8, 0x12#8, 0x34#8, 0x56#8, 0x78#8],
        .seg ⟨true, false, true, false⟩ 2#32 [0xAA#8, 0xBB#8], .waitIdle] := by decide

/-- R186, L1.1. -/
theorem test_se :
    (did (.se 0#24) (idleWith 0#32)).client =
      [.seg ⟨true, false, true, false⟩ 4#32 [0xD8#8, 0x00#8, 0x00#8, 0x00#8], .waitIdle] := by decide

/-- R186, L3.2. -/
theorem test_se4 :
    (did (.se4 0x01000000#32) (idleWith 0#32)).client =
      [.seg ⟨true, false, true, false⟩ 5#32 [0xDC#8, 0x01#8, 0x00#8, 0x00#8, 0x00#8], .waitIdle] := by decide

/-- R183, R184. -/
theorem test_wren_wrdi :
    (did .wren (idleWith 0#32)).client = [.seg ⟨true, false, true, false⟩ 1#32 [0x06#8]] ∧
    (did .wrdi (idleWith 0#32)).client = [.seg ⟨true, false, true, false⟩ 1#32 [0x04#8]] := by decide

/-- R185. -/
theorem test_rdsr1 :
    (did .rdsr1 (idleWith 0#32)).client =
      [.seg ⟨true, false, false, false⟩ 1#32 [0x05#8], .seg ⟨false, true, true, false⟩ 1#32 []] := by decide

/-- R193, L3.5. -/
theorem test_rdid :
    (did (.rdid 3#32) (idleWith 0#32)).client =
      [.seg ⟨true, false, false, false⟩ 1#32 [0x9F#8], .seg ⟨false, true, true, false⟩ 3#32 []] ∧
    (did (.rdid 0#32) (idleWith 0#32)).client = [.seg ⟨true, false, true, false⟩ 1#32 [0x9F#8]] := by decide

/-! ### The block's steps and the platform -/

/-- L1.8: the first burst of 1024 bytes is 240. -/
theorem test_burst_size : (blockStep .dummyBurst (accepted false false true true 1024#32)).core0.dummyPending = 240 := by
  decide

/-- L2.4 steps 4 and 5: with the RX FIFO full the shifter does not start. -/
theorem test_full_rx_fifo_stalls_the_shifter :
    enabled .shiftStart (did (.txdataW 0x55#32) (blockStep .shiftEnd (blockStep .shiftStart
      (did (.txdataW 0xAA#32) { accepted true true true false 2#32 with miso := [0xAA#8] })))) = false := by decide

/-- L2.7: reset in a segment appends CsHigh only. -/
theorem test_reset_raises_chip_select :
    (platformReset (accepted true false false false 4#32)).trace = [.csLow 0#1 0, .csHigh 0#1 0] ∧
    (platformReset (accepted true false false false 4#32)).statusWord = 0x00000020#32 := by decide

/-- R117: under RX_FULL_POLICY = overflow a full RX FIFO loses the byte. -/
theorem test_overflow_loses_the_byte :
    (blockStep .shiftEnd { (idleWith 0#32).setCtl 0#1 { Ctl.reset with rxf := [1#8], shBusy := true } with
      cfg := { tiny with rxFull := .overflow }, miso := [2#8] }).core0.rxf = [1#8] := by decide

/-- R62, 93_implementation_defined.md section 2: a model refuses a misaligned access, in a POLL too; R60: one outside the
window is none of the block's. -/
theorem test_bad_accesses_stop :
    runRequest (.read 0x09 4) (idleWith 0#32) = .refused .badAccess ∧
    clientStep (.poll 0x05 1#32 0#32) (idleWith 0#32) = .refused .badAccess ∧
    clientStep (.poll 0x40 1#32 0#32) (idleWith 0#32) = .fault .outsideWindow ∧
    runStmt (.busRead 0x0FFF 4) (idleWith 0#32) = .fault .outsideWindow := ⟨rfl, rfl, rfl, rfl⟩

/-- R62: the hardware ignores such an access. -/
theorem test_bad_access_ignored :
    runRequest (.write 0x09 4 1#32) { idleWith 0#32 with cfg := { tiny with badAccess := .ignore } } =
      .next { idleWith 0#32 with cfg := { tiny with badAccess := .ignore }, marks := [.notLegal] } := rfl

/-- A word placed by the host is run by the next step. -/
theorem test_withFetchWord_runs :
    step ((idleWith 0#32).withFetchWord 32 0x00000003) =
      .next { idleWith 0#32 with prog := [.request (.command 0x00000003#32)], rpc := 1 } := rfl

/-! ### Witnesses: for each statement with hypotheses, states and operands that meet them -/

theorem idleWith_inv (n : Word) : Inv (idleWith n) :=
  (Inv.resetWith (p := tiny) ⟨by decide, by decide, by decide, by decide⟩ rfl true true).of_eq
    rfl rfl rfl rfl rfl rfl rfl rfl rfl rfl

theorem accepted_inv (txp rxp last crcen : Bool) (n : Word) : Inv (accepted txp rxp last crcen n) :=
  (idleWith_inv n).acceptSegment rfl txp rxp last crcen

theorem accepted_segInv (txp rxp last crcen : Bool) (n : Word) : SegInv (accepted txp rxp last crcen n) :=
  .acceptSegment (idleWith_inv n) rfl txp rxp last crcen

theorem idleWith_busInv (n : Word) : BusInv (idleWith n) := rfl

/-- A segment of length 0 about to leave TAIL. -/
def inTail (last : Bool) : State := blockStep .endRun (accepted false false last false 0#32)

theorem inTail_inv (last : Bool) : Inv (inTail last) := (accepted_inv ..).blockStep _

theorem inTail_segInv (last : Bool) : SegInv (inTail last) := (accepted_segInv ..).blockStep (accepted_inv ..) _

/-- A command left with SS = 1 (R114). -/
def held : State := blockStep .leaveTail (inTail false)

theorem held_inv : Inv held := (inTail_inv false).blockStep _

/-- DecodeInvertsEncode: well-formed instructions of both families, a SELECT of the last line and a 4-byte form at
the first offset that takes it. -/
theorem witness_wf : (Instr.select 1#1 0x80#8).wf = true ∧ (Instr.read4 0x01000000#32 0xFFFFFFFF#32).wf = true := by
  decide

/-- EncodeInvertsDecode: a request of each form that decodes. -/
theorem witness_decodes :
    decode (.command 0x000000F1#32) = .ok (.xfer true true true true) ∧
    decode (.write 0x1C 4 7#32) = .ok (.ignored (.writeReserved 7#32)) ∧ decode (.read 0x18 4) = .ok .crcR := by decide

/-- StepRunsDecodedInstruction: a requester about to run CRCINIT, and a table word. -/
theorem witness_step_runs :
    ((idleWith 0#32).withFetchWord 32 3).turns = .requester :: [] ∧ ((idleWith 0#32).withFetchWord 32 3).client = [] ∧
    ((idleWith 0#32).withFetchWord 32 3).prog[((idleWith 0#32).withFetchWord 32 3).rpc]? =
      some (.request (.command 3#32)) ∧
    decode (.command 3#32) = .ok .crcinit ∧ decodeTableWord 32 3 = some .crcinit := by decide

/-- StepRunsDecodedInstruction, the accesses by bus address: at the first and the last word of the window. -/
theorem witness_step_runs_bus :
    (({ idleWith 0#32 with turns := [.requester], prog := [.busWrite 0x1000 4 3#32] } : State).prog[0]? =
        some (.busWrite 0x1000 4 3#32) ∧ tiny.base ≤ 0x1000 ∧ 0x1000 < tiny.base + 0x20 ∧
      decode (.write (0x1000 - tiny.base) 4 3#32) = .ok (.cmdW 3#32)) ∧
    (({ idleWith 0#32 with turns := [.requester], prog := [.busRead 0x101C 4] } : State).prog[0]? =
        some (.busRead 0x101C 4) ∧ tiny.base ≤ 0x101C ∧ 0x101C < tiny.base + 0x20 ∧
      decode (.read (0x101C - tiny.base) 4) = .ok (.ignored .readReserved)) := by decide

/-- RejectedRequestEffect, clause by clause, at the edges of the window, by offset and by bus address; both values of
`badAccess`. -/
theorem witness_rejected :
    ((idleWith 0#32).cfg.badAccess = .refuse ∧ ({ tiny with badAccess := .ignore }).badAccess = .ignore ∧
      0x0FFF < tiny.base ∧ tiny.base + 0x20 ≤ 0x1020 ∧ 0x1D % 4 ≠ 0) ∧
    ReservedBitSet 0x80000003#32 ∧ ((0x1F < 0x20 ∧ (0x1F % 4 ≠ 0 ∨ 4 ≠ 4)) ∧ (0 < 0x20 ∧ (0 % 4 ≠ 0 ∨ 2 ≠ 4))) ∧
    0x20 ≤ 0x20 ∧ decode (.frame [0xAB#8]) = .error .unknownOpcode := by
  refine ⟨?_, .inr (.inr (.inl ?_)), ?_, ?_, ?_⟩ <;> decide

/-- OwnTurnTakesAnEnabledStep: two steps of the block are enabled at once. -/
theorem witness_own_turn :
    (received).turns = [] ∧ enabledSteps (accepted false false true false 0#32) ≠ [] ∧
    enabledSteps { received with seg := { received.seg with rxp := false } } ≠ [] := by decide

/-- CommandErrorPriority, clause by clause: while busy; an illegal word; a SELECT with SS = 1; an XFER with
INIT_DONE = 0. -/
theorem witness_priority :
    (accepted true false false false 4#32).phase ≠ .idle ∧
    ((idleWith 0#32).phase = .idle ∧ IllegalWord (idleWith 0#32).cfg.ncs 0x0000000F#32) ∧
    (held.phase = .idle ∧ ¬ IllegalWord held.cfg.ncs 0x00008002#32 ∧ opOf 0x00008002#32 = 0x2 ∧ held.ss = true) ∧
    ((State.resetWith tiny false true).phase = .idle ∧
      ¬ IllegalWord (State.resetWith tiny false true).cfg.ncs 0x00000001#32 ∧ opOf 0x00000001#32 = 0x1 ∧
      (State.resetWith tiny false true).initDone (State.resetWith tiny false true).ctrlSel = false) := by
  refine ⟨by decide, ⟨rfl, .inl (by decide)⟩, ⟨by decide, ?_, by decide, by decide⟩, rfl, ?_, by decide, rfl⟩
  · rintro (h | h | ⟨-, h⟩)
    · revert h; decide
    · revert h; unfold ReservedBitSet; decide
    · exact h ⟨7, by decide, by decide, by decide⟩
  · rintro (h | h | ⟨h, -⟩)
    · revert h; decide
    · revert h; unfold ReservedBitSet; decide
    · revert h; decide

/-- ReservedOpRaisesErrCmd: in IDLE and in RUN. -/
theorem witness_phases : (idleWith 0#32).phase = .idle ∧ (accepted true false false false 4#32).phase ≠ .idle := by
  decide

/-- AtMostOneErrorPerStep, ObservationOnlyGrows, StepKeepsBlockInvariant, StepKeepsSegmentRecord,
StepKeepsBusDiscipline: a step of a running segment, from a state that meets the invariants. -/
theorem witness_step :
    Inv (accepted true false false false 4#32) ∧ SegInv (accepted true false false false 4#32) ∧
    BusInv (accepted true false false false 4#32) ∧
    ∃ t, step { accepted true false false false 4#32 with turns := [.block .shiftStart] } = .next t :=
  ⟨accepted_inv .., accepted_segInv .., by unfold BusInv; decide, _, rfl⟩

/-- StepKeepsBlockInvariant at the state of `witness_step` itself, whose step is the requester's. -/
theorem witness_step_now : ∃ t, step (accepted true false false false 4#32) = .next t := ⟨_, rfl⟩

/-- ErrorBitsAreSticky: a STATUS write that clears ERR_CMD, as an instruction and from a pseudo-instruction. -/
theorem witness_sticky :
    exec (.statusW 0x00000100#32) (raiseError .cmd (idleWith 0#32)) =
      .next (clearErrors 0x00000100#32 (raiseError .cmd (idleWith 0#32))) ∧
    (raiseError .cmd (idleWith 0#32)).err.getLsbD 0 = true ∧
    (clearErrors 0x00000100#32 (raiseError .cmd (idleWith 0#32))).err.getLsbD 0 = false ∧
    clientStep (.write 0x08 0x00000100#32) (raiseError .cmd (idleWith 0#32)) =
      .next (clearErrors 0x00000100#32 (raiseError .cmd (idleWith 0#32))) :=
  ⟨rfl, by decide, by decide, rfl⟩

/-- XferAcceptance: its clauses. -/
theorem witness_xfer :
    (accepted true false false false 4#32).phase ≠ .idle ∧
    ((idleWith 4#32).phase = .idle ∧ (idleWith 4#32).initDone (idleWith 4#32).ctrlSel = true) ∧
    ((State.resetWith tiny false true).phase = .idle ∧
      (State.resetWith tiny false true).initDone (State.resetWith tiny false true).ctrlSel = false) := by decide

/-- TxdataWriteEffect: TXRDY = 1 and TXRDY = 0. -/
theorem witness_txdata :
    (accepted true false false false 4#32).statusWord.getLsbD 2 = true ∧
    (idleWith 0#32).statusWord.getLsbD 2 = false := by decide

/-- RxdataReadEffect: RXAVL = 1 with a byte, and RXAVL = 0. -/
theorem witness_rxdata :
    (received.statusWord.getLsbD 3 = true ∧ (received.ctl received.ctrlSel).rxf = 0xDE#8 :: []) ∧
    (idleWith 0#32).statusWord.getLsbD 3 = false := by decide

/-- DummyBurstStep, DiscardStep: each enabled. -/
theorem witness_burst_and_discard :
    enabled .dummyBurst (accepted false false true true 1024#32) = true ∧
    (enabled .discard { received with seg := { received.seg with rxp := false } } = true ∧
      (({ received with seg := { received.seg with rxp := false } } : State).ctl 0#1).rxf = 0xDE#8 :: []) := by decide

/-- SegmentEndSteps: end of RUN, TAIL with LAST = 1, TAIL with LAST = 0. -/
theorem witness_segment_end :
    enabled .endRun (accepted false false true false 0#32) = true ∧
    (enabled .leaveTail (inTail true) = true ∧ (inTail true).seg.last = true) ∧
    (enabled .leaveTail (inTail false) = true ∧ (inTail false).seg.last = false) := by decide

/-- A TX segment with its first byte in the TX FIFO. -/
def fed : State := txdataWrite 0x06#32 (accepted true true true false 4#32)

theorem fed_inv : Inv fed := (accepted_inv ..).txdataWrite _

/-- ShifterStartStep: a data byte and a dummy byte. -/
theorem witness_shift_start :
    (enabled .shiftStart fed = true ∧ (fed.ctl fed.ctrlSel).txf = 0x06#8 :: []) ∧
    (enabled .shiftStart (blockStep .dummyBurst (accepted false false true true 4#32)) = true ∧
      ((blockStep .dummyBurst (accepted false false true true 4#32)).ctl 0#1).txf = []) := by decide

/-- ShifterEndStep: room in the RX FIFO, and none; the slave's answer named. -/
theorem witness_shift_end :
    (((blockStep .shiftStart fed).ctl 0#1).shBusy = true ∧
      ((blockStep .shiftStart fed).ctl 0#1).rxf.length < (blockStep .shiftStart fed).cfg.rxd) ∧
    ((((idleWith 0#32).setCtl 0#1 { Ctl.reset with rxf := [1#8], shBusy := true }).ctl 0#1).shBusy = true ∧
      tiny.rxd ≤ (((idleWith 0#32).setCtl 0#1 { Ctl.reset with rxf := [1#8], shBusy := true }).ctl 0#1).rxf.length) ∧
    ({ idleWith 0#32 with miso := [0xDE#8] } : State).miso = 0xDE#8 :: [] := by decide

/-- InvariantsHoldAtReset: parameters R6 allows, at the ends of the range of NCS. -/
theorem witness_params :
    Params.Legal tiny ∧ tiny.rxFull = .stall ∧ Params.Legal { tiny with ncs := 1 } := by
  unfold Params.Legal; decide

/-- CounterInvariant: a running segment. -/
theorem witness_counters :
    Inv (accepted true true false false 4#32) ∧ SegInv (accepted true true false false 4#32) ∧
    (accepted true true false false 4#32).phase ≠ .idle := ⟨accepted_inv .., accepted_segInv .., by decide⟩

/-- IdleBlockIsQuiet, ChipSelectPins: IDLE with SS = 0 and with SS = 1. -/
theorem witness_idle :
    (Inv (idleWith 0#32) ∧ (idleWith 0#32).phase = .idle ∧ (idleWith 0#32).turns = [] ∧ (idleWith 0#32).client = [] ∧
      (idleWith 0#32).prog[(idleWith 0#32).rpc]? = none) ∧
    (Inv held ∧ held.phase = .idle ∧ held.ss = true) :=
  ⟨⟨idleWith_inv _, rfl, rfl, rfl, rfl⟩, held_inv, by decide, by decide⟩

theorem received_inv : Inv received :=
  ((((accepted_inv false true true true 2#32).of_eq (t := { accepted false true true true 2#32 with miso := [0xDE#8] })
    rfl rfl rfl rfl rfl rfl rfl rfl rfl rfl).blockStep _).blockStep _).blockStep _

/-- ReadyFlagsAreStable: TXRDY = 1 and RXAVL = 1, and instructions that are not the access they stand for. -/
theorem witness_ready_flags :
    (Inv (accepted true false false false 4#32) ∧ (accepted true false false false 4#32).statusWord.getLsbD 2 = true) ∧
    (Inv received ∧ received.statusWord.getLsbD 3 = true) ∧
    (∃ t, exec .crcinit (accepted true false false false 4#32) = .next t) ∧ (∃ t, exec .crcinit received = .next t) ∧
    (∀ v, Instr.crcinit ≠ .txdataW v) ∧ Instr.crcinit ≠ .rxdataR :=
  ⟨⟨accepted_inv .., by decide⟩, ⟨received_inv, by decide⟩, ⟨_, rfl⟩, ⟨_, rfl⟩, fun v => by simp, by simp⟩

/-- ReadyFlagsAreStable, the steps of the machine: the platform drives INIT_DONE, and no reset is named. -/
theorem witness_ready_flags_step :
    (∃ t, step { accepted true false false false 4#32 with turns := [.setInit 1#1 false] } = .next t) ∧
    (∃ t, step { received with turns := [.block .shiftEnd] } = .next t) ∧
    (∀ rest, [Turn.setInit 1#1 false] ≠ .reset :: rest) ∧ (∀ rest, [Turn.block .shiftEnd] ≠ .reset :: rest) :=
  ⟨⟨_, rfl⟩, ⟨_, rfl⟩, fun rest => by simp, fun rest => by simp⟩

/-- SelectionChangesOnlyBetweenCommands: a step that selects core 1. -/
theorem witness_selection :
    ∃ t, step (placeRequest (.command 0x00000112#32) (idleWith 0#32)) = .next t ∧
      (∀ rest, (placeRequest (.command 0x00000112#32) (idleWith 0#32)).turns ≠ .reset :: rest) ∧
      t.ctrlSel ≠ (placeRequest (.command 0x00000112#32) (idleWith 0#32)).ctrlSel :=
  ⟨_, rfl, fun rest => by simp [placeRequest], by decide⟩

/-- StallLosesNoByte: a byte about to end. -/
theorem witness_byte_ends : Inv (blockStep .shiftStart fed) ∧ enabled .shiftEnd (blockStep .shiftStart fed) = true :=
  ⟨fed_inv.blockStep _, by decide⟩

/-- StallLosesNoByte: a state in which an overflow is already marked, and a step of it. -/
theorem witness_overflow_marked :
    Inv { idleWith 0#32 with marks := [.rxOverflow] } ∧
    ∃ t, step { idleWith 0#32 with marks := [.rxOverflow] } = .next t ∧ .rxOverflow ∈ t.marks :=
  ⟨(idleWith_inv 0#32).of_eq rfl rfl rfl rfl rfl rfl rfl rfl rfl rfl, _, rfl, by decide⟩

/-- SegmentEndsComplete: a segment that ends, with LAST and without. -/
theorem witness_segment_completes (last : Bool) :
    Inv (inTail last) ∧ SegInv (inTail last) ∧ (inTail last).phase ≠ .idle ∧
    (blockStep .leaveTail (inTail last)).phase = .idle :=
  ⟨inTail_inv last, inTail_segInv last, by cases last <;> decide, by cases last <;> decide⟩

/-- A segment of 240 dummy bytes, all of them issued in one burst. -/
def burst : State := blockStep .dummyBurst (accepted false false true true 240#32)

/-- DummyBurstSizes: all 240 bytes of a segment asked for. -/
theorem witness_bursts :
    Inv burst ∧ SegInv burst ∧ burst.phase ≠ .idle ∧ burst.seg.txp = false ∧ burst.txCount = burst.seg.len.toNat :=
  ⟨(accepted_inv ..).blockStep _, (accepted_segInv ..).blockStep (accepted_inv ..) _, by decide, by decide, by decide⟩

/-- ZeroLengthSegment: from SS = 0, and from SS = 1. -/
theorem witness_zero_length :
    (Inv (idleWith 0#32) ∧ (idleWith 0#32).phase = .idle ∧ (idleWith 0#32).initDone (idleWith 0#32).ctrlSel = true ∧
      (idleWith 0#32).len = 0#32) ∧
    (Inv held ∧ held.phase = .idle ∧ held.initDone held.ctrlSel = true ∧ held.len = 0#32) :=
  ⟨⟨idleWith_inv _, rfl, rfl, rfl⟩, held_inv, by decide, by decide, by decide⟩

/-- The requester writes two bytes of four and reads none (R126, L2.4's requester-caused stall). -/
def hung : State := txdataWrite 0x55#32 (blockStep .shiftEnd (blockStep .shiftStart fed))

/-- A receiving segment of three bytes whose requester reads none: one byte received, the other two pending. -/
def unread : State :=
  blockStep .shiftEnd (blockStep .shiftStart (blockStep .dummyBurst (accepted false true true false 3#32)))

/-- RequesterCausedHang, the states that wait: on RXAVL and on TXRDY alone. -/
theorem witness_waits :
    (Inv hung ∧ hung.phase ≠ .idle ∧ enabledSteps hung = []) ∧
    (Inv (accepted true true false false 4#32) ∧ (accepted true true false false 4#32).phase ≠ .idle ∧
      enabledSteps (accepted true true false false 4#32) = []) :=
  ⟨⟨((fed_inv.blockStep _).blockStep _).txdataWrite _, by decide, rfl⟩, accepted_inv .., by decide, rfl⟩

/-- RequesterCausedHang, clause by clause: full duplex; a full RX FIFO with dummy bytes pending; a requester that writes
nothing; and nothing for the requester to do. -/
theorem witness_hang :
    (Inv hung ∧ hung.phase = .run ∧ (hung.ctl hung.ctrlSel).shBusy = false ∧ hung.seg.txp = true ∧
      hung.seg.rxp = true ∧ (hung.ctl hung.ctrlSel).txf.length = hung.cfg.txd ∧
      (hung.ctl hung.ctrlSel).rxf.length = hung.cfg.rxd ∧ enabledSteps hung = [] ∧ hung.turns = [] ∧
      hung.client = [] ∧ hung.prog[hung.rpc]? = none) ∧
    (Inv unread ∧ unread.phase = .run ∧ (unread.ctl unread.ctrlSel).shBusy = false ∧ unread.seg.rxp = true ∧
      (unread.ctl unread.ctrlSel).rxf.length = unread.cfg.rxd ∧ 0 < (unread.ctl unread.ctrlSel).dummyPending) ∧
    (Inv (accepted true true false false 4#32) ∧ (accepted true true false false 4#32).phase = .run ∧
      ((accepted true true false false 4#32).ctl 0#1).shBusy = false ∧
      (accepted true true false false 4#32).seg.txp = true ∧ ((accepted true true false false 4#32).ctl 0#1).txf = [] ∧
      (accepted true true false false 4#32).seg.rxp = true ∧
      (accepted true true false false 4#32).txCount < (accepted true true false false 4#32).seg.len.toNat) :=
  ⟨⟨((fed_inv.blockStep _).blockStep _).txdataWrite _, rfl, rfl, rfl, rfl, rfl, rfl, rfl, rfl, rfl, rfl⟩,
    ⟨(((accepted_inv ..).blockStep _).blockStep _).blockStep _, rfl, rfl, rfl, rfl, by decide⟩,
    accepted_inv .., rfl, rfl, rfl, rfl, rfl, by decide⟩

/-- DummySegmentCompletes. -/
theorem witness_dummy_segment :
    Inv (accepted false false true true 1024#32) ∧ SegInv (accepted false false true true 1024#32) ∧
    (accepted false false true true 1024#32).turns = [] ∧ (accepted false false true true 1024#32).phase = .run ∧
    (accepted false false true true 1024#32).seg.txp = false ∧ (accepted false false true true 1024#32).seg.rxp = false :=
  ⟨accepted_inv .., accepted_segInv .., rfl, rfl, rfl, rfl⟩

/-- A requester about to run a SEG statement. -/
def segReady : State :=
  { idleWith 0#32 with client := [.seg ⟨true, true, true, false⟩ 2#32 [0xAA#8, 0x55#8], .waitTest] }

/-- SegDriverCompletes. -/
theorem witness_seg_driver :
    Inv segReady ∧ segReady.turns = [] ∧ segReady.phase = .idle ∧
    segReady.client = .seg ⟨true, true, true, false⟩ 2#32 [0xAA#8, 0x55#8] :: [.waitTest] ∧
    segReady.initDone segReady.ctrlSel = true ∧ [0xAA#8, 0x55#8].length = (2#32).toNat :=
  ⟨(idleWith_inv 0#32).of_eq rfl rfl rfl rfl rfl rfl rfl rfl rfl rfl, rfl, rfl, rfl, rfl, rfl⟩

/-- SelectEffect, clause by clause: busy; a mask of two lines and one of a line the core has not; SS = 1; the last
line. -/
theorem witness_select :
    (accepted true false false false 4#32).phase ≠ .idle ∧
    ((idleWith 0#32).phase = .idle ∧ ¬ OneLine 7 0x80#8 ∧ ¬ OneLine 8 0x03#8) ∧
    (held.phase = .idle ∧ OneLine held.cfg.ncs 0x80#8 ∧ held.ss = true) ∧
    ((idleWith 0#32).phase = .idle ∧ OneLine (idleWith 0#32).cfg.ncs 0x80#8 ∧ (idleWith 0#32).ss = false) := by
  refine ⟨by decide, ⟨rfl, ?_, ?_⟩, ⟨by decide, ⟨7, by decide, by decide, by decide⟩, by decide⟩, rfl,
    ⟨7, by decide, by decide, by decide⟩, rfl⟩
  · rintro ⟨i, h, -, e⟩; interval_cases i <;> revert e <;> decide
  · rintro ⟨i, h, -, e⟩; interval_cases i <;> revert e <;> decide

/-- CrcCommandsEffect: `witness_phases`, a CRCINIT word with bit 4 set, and CRCFEED words with bit 4 and bit 16. -/
theorem witness_crc_word :
    (opOf 0x00000013#32 = 0x3 ∧ (0x00000013#32).extractLsb' 4 28 ≠ 0#28) ∧
    (opOf 0x00000014#32 = 0x4 ∧ (0x00000014#32).extractLsb' 4 4 ≠ 0#4) ∧
    (opOf 0x00010004#32 = 0x4 ∧ (0x00010004#32).extractLsb' 16 16 ≠ 0#16) := by decide

/-- A requester about to run the statement `st` over a slave that will answer `miso`. -/
def running (st : Stmt) (miso : List Byte) : State := { idleWith 0#32 with prog := [st], miso := miso }

/-- The premises every run of a statement has. -/
theorem running_ready (st : Stmt) (miso : List Byte) :
    Inv (running st miso) ∧ (running st miso).turns = [] ∧ (running st miso).client = [] ∧
    (running st miso).phase = .idle ∧ (running st miso).initDone (running st miso).ctrlSel = true ∧
    (running st miso).prog[(running st miso).rpc]? = some st :=
  ⟨(idleWith_inv 0#32).of_eq rfl rfl rfl rfl rfl rfl rfl rfl rfl rfl, rfl, rfl, rfl, rfl, rfl⟩

/-- The same with SS = 1 (a command left open). -/
theorem held_ready (st : Stmt) :
    Inv { held with prog := [st] } ∧ ({ held with prog := [st] } : State).turns = [] ∧
    ({ held with prog := [st] } : State).client = [] ∧ ({ held with prog := [st] } : State).phase = .idle ∧
    ({ held with prog := [st] } : State).initDone held.ctrlSel = true ∧
    ({ held with prog := [st] } : State).prog[held.rpc]? = some st ∧ ({ held with prog := [st] } : State).ss = true :=
  ⟨held_inv.of_eq rfl rfl rfl rfl rfl rfl rfl rfl rfl rfl, rfl, rfl, rfl, rfl, rfl, rfl⟩

/-- WriteEnableFrame, with `running_ready` and `held_ready`. -/
theorem witness_wren :
    ((0x06#8 : Byte) = 0x06#8 ∧ (Stmt.request (.frame [0x06#8]) = .request (.frame [0x06#8]) ∨
      Stmt.request (.frame [0x06#8]) = .pseudo .flashWren)) ∧
    ((0x04#8 : Byte) = 0x04#8 ∧ (Stmt.pseudo .flashWrdi = .request (.frame [0x04#8]) ∨
      Stmt.pseudo .flashWrdi = .pseudo .flashWrdi)) := by decide

/-- FlashReadFrame, with `running_ready` and `held_ready`: each form, at the edges of the address rule and of the
lengths. -/
theorem witness_sends_then_reads :
    SendsThenReads (.pseudo (.flashRead 0#32 0x01000000#32)) [0x13#8, 0x01#8, 0x00#8, 0x00#8, 0x00#8] 0#32 ∧
    SendsThenReads (.request (.frame [0x03#8, 0xFF#8, 0xFF#8, 0xFF#8, 0#8])) [0x03#8, 0xFF#8, 0xFF#8, 0xFF#8] 1#32 ∧
    SendsThenReads (.request (.frame [0x05#8, 0#8])) [0x05#8] 1#32 ∧
    SendsThenReads (.request (.frame [0x9F#8, 0#8, 0#8, 0#8])) [0x9F#8] 3#32 ∧
    SendsThenReads (.pseudo (.custom [] 1#32)) [] 1#32 :=
  ⟨.inl ⟨0x01000000#32, rfl, by decide⟩, .inr (.inl ⟨0#8, 0xFFFFFF#24, by decide, by decide⟩),
    .inr (.inr (.inr (.inl ⟨.inr ⟨0#8, rfl⟩, rfl, rfl⟩))), .inr (.inr (.inr (.inr (.inl ⟨0#8, by decide, rfl⟩)))),
    .inr (.inr (.inr (.inr (.inr ⟨rfl, by decide, .inr (by decide)⟩))))⟩

/-- The same of READ4, and the slave's answers named. -/
theorem witness_sends_then_reads_four :
    SendsThenReads (.request (.frame [0x13#8, 0x01#8, 0#8, 0#8, 0#8, 0#8])) [0x13#8, 0x01#8, 0#8, 0#8, 0#8] 1#32 ∧
    (running (.pseudo .flashRdsr1) [7#8, 3#8]).miso = [7#8, 3#8] ++ [] ∧
    [7#8, 3#8].length = [0x05#8].length + (1#32).toNat :=
  ⟨.inr (.inr (.inl ⟨0#8, 0x01000000#32, by decide, by decide⟩)), rfl, rfl⟩

/-- ReadcrcReturnsTheCrc (L3.1), with `running_ready`: four bytes in one chunk, and the ends of the range. -/
theorem witness_readcrc_run :
    (running (.pseudo (.readcrc 0#32 4#32)) [9#8, 9#8, 9#8, 9#8, 0#8, 1#8, 2#8, 3#8]).miso =
      (List.range (chunkCount (4#32).toNat)).flatMap
        (fun j => (chunkExchanges 0xA5#8 (BitVec.ofNat 8) (fun _ => [9#8, 9#8, 9#8, 9#8]) 0#32 4 j).map Prod.snd) ++
        [] ∧
    (0#32).toNat + (4#32).toNat ≤ 2 ^ 32 ∧ (0xFFFFFFFF#32).toNat + (1#32).toNat ≤ 2 ^ 32 ∧ chunkCount 1030 = 2 ∧
    chunkCount 1024 = 1 ∧ chunkCount 0 = 0 :=
  ⟨by simp only [show chunkCount (4#32).toNat = 1 by simp [chunkCount]]; rfl, by decide, by decide,
    by simp [chunkCount], by simp [chunkCount], by simp [chunkCount]⟩

/-- ReadcrcReturnsTheCrc: header answers of the right length exist for every chunk. -/
theorem witness_readcrc_junk (off : Word) :
    ∀ j, (List.replicate (abytes (chunkOffset off j) + 1) (0#8 : Byte)).length = abytes (chunkOffset off j) + 1 :=
  fun _ => List.length_replicate

/-- ProgramEraseFrames (L3.6, L3.2), with `running_ready` and `held_ready`: each form, and a slave that is busy for one
poll. -/
theorem witness_program_erase :
    ProgramsOrErases (.pseudo (.flashProgram [0xAA#8, 0xBB#8] 0x12345678#32))
      [0x12#8, 0x12#8, 0x34#8, 0x56#8, 0x78#8, 0xAA#8, 0xBB#8] ∧
    ProgramsOrErases (.request (.frame [0x02#8, 0#8, 0#8, 0#8, 0xDE#8])) [0x02#8, 0#8, 0#8, 0#8, 0xDE#8] ∧
    ProgramsOrErases (.request (.frame [0x12#8, 1#8, 0#8, 0#8, 0#8])) [0x12#8, 1#8, 0#8, 0#8, 0#8] ∧
    ProgramsOrErases (.pseudo (.flashErase 0x01000000#32)) [0xDC#8, 0x01#8, 0#8, 0#8, 0#8] ∧
    ProgramsOrErases (.request (.frame [0xD8#8, 0#8, 1#8, 0#8])) [0xD8#8, 0#8, 1#8, 0#8] ∧
    ProgramsOrErases (.request (.frame [0xDC#8, 1#8, 0#8, 0#8, 0#8])) [0xDC#8, 1#8, 0#8, 0#8, 0#8] :=
  ⟨.inl ⟨[0xAA#8, 0xBB#8], 0x12345678#32, by decide, rfl, by decide⟩,
    .inr (.inl ⟨0#8, 0#24, [0xDE#8], by decide, by decide, by decide⟩),
    .inr (.inr (.inl ⟨0#8, 0x01000000#32, [], by decide, by decide, by decide⟩)),
    .inr (.inr (.inr (.inl ⟨0x01000000#32, rfl, by decide⟩))),
    .inr (.inr (.inr (.inr (.inl ⟨0#8, 0x000100#24, by decide, by decide⟩)))),
    .inr (.inr (.inr (.inr (.inr ⟨0#8, 0x01000000#32, by decide, by decide⟩))))⟩

theorem witness_program_erase_answers :
    [1#8, 1#8, 1#8, 1#8].length = [0xD8#8, 0#8, 1#8, 0#8].length ∧
    (∀ p ∈ [((0#8 : Byte), (0x03#8 : Byte))], p.2.getLsbD 0 = true) ∧ (0x02#8 : Byte).getLsbD 0 = false ∧
    (running (.request (.frame [0xD8#8, 0#8, 1#8, 0#8])) [1#8, 1#8, 1#8, 1#8, 0#8, 3#8, 0#8, 2#8]).miso =
      [1#8, 1#8, 1#8, 1#8] ++ ([((0#8 : Byte), (3#8 : Byte))] ++ [(0#8, 2#8)]).flatMap (fun p => [p.1, p.2]) ++ [] :=
  ⟨rfl, by simp, rfl, rfl⟩

/-- WaitIdleLoops: a status byte with bit 0 set, one without, and none. -/
theorem witness_wait_idle :
    ({ idleWith 0#32 with rxbuf := [0x03#8] } : State).rxbuf = 0x03#8 :: [] ∧ 0x03#8 &&& 0x01#8 ≠ 0#8 ∧
    ({ idleWith 0#32 with rxbuf := [0x00#8] } : State).rxbuf = 0x00#8 :: [] ∧ ¬ (0x00#8 &&& 0x01#8 ≠ 0#8) ∧
    (idleWith 0#32).rxbuf = [] := by decide

/-- SpiNorSequences: a POLL's read that goes on. -/
theorem witness_poll : ∃ t, runRequest (.read 0x08 4) { idleWith 0#32 with client := [] } = .next t := ⟨_, rfl⟩

/-- ReadcrcSequence, clause by clause, at the edge of the range and of the size. -/
theorem witness_readcrc :
    (0xFFFFFFFF#32).toNat + (1#32).toNat ≤ 2 ^ 32 ∧ 2 ^ 32 < (0xFFFFFFFF#32).toNat + (2#32).toNat ∧
    1030 = (1030#32).toNat ∧ 1024 < (1030#32).toNat := by decide

/-- PlatformResetEffect, InitDoneInput (a fall while SS = 1 on core 0, and one on core 1). -/
theorem witness_platform :
    ({ held with turns := [.reset] } : State).turns = .reset :: [] ∧
    (({ held with turns := [.setInit 0#1 false] } : State).turns = .setInit 0#1 false :: [] ∧ 0#1 = held.ctrlSel ∧
      (held.phase ≠ .idle ∨ held.ss = true) ∧ held.initDone 0#1 = true) ∧
    ¬ (1#1 = held.ctrlSel ∧ (held.phase ≠ .idle ∨ held.ss = true) ∧ held.initDone 1#1 = true ∧ false = false) := by
  decide

end Sys2Proof.Tests
end

section
/-! PROOF. The STATUS word bit by bit (R24 to R30), and obligation O16. -/

namespace Sys2Proof.Machine

/-- Bit `i` of STATUS as the table of R24 lays it out: six single bits, two reserved ones, then the error bits up. -/
def State.statusBit (s : State) : Nat → Bool
  | 0 => s.busy
  | 1 => s.ss
  | 2 => s.txrdy
  | 3 => s.rxavl
  | 4 => s.ctrlSel.getLsbD 0
  | 5 => s.initBit
  | 6 | 7 => false
  | j + 8 => s.err.getLsbD j

theorem State.statusWord_getLsbD (s : State) (i : Nat) : s.statusWord.getLsbD i = s.statusBit i := by
  simp only [State.statusWord, BitVec.getLsbD_append]
  match i with
  | 0 | 1 | 2 | 3 | 4 | 5 | 6 | 7 => simp [State.statusBit]
  | j + 8 => simpa [State.statusBit] using BitVec.lt_of_getLsbD

theorem State.statusWord_getLsbD_err (s : State) (j : Nat) : s.statusWord.getLsbD (8 + j) = s.err.getLsbD j := by
  rw [Nat.add_comm, s.statusWord_getLsbD, State.statusBit]

theorem State.statusWord_ctrlSel (s : State) : s.statusWord.extractLsb' 4 1 = s.ctrlSel := by
  refine BitVec.eq_of_getLsbD_eq fun i hi => ?_
  obtain rfl : i = 0 := by omega
  rw [BitVec.getLsbD_extractLsb', s.statusWord_getLsbD]
  rfl

theorem State.statusWord_reserved_7_6 (s : State) : s.statusWord.extractLsb' 6 2 = 0#2 := by
  refine BitVec.eq_of_getLsbD_eq fun i hi => ?_
  rw [BitVec.getLsbD_extractLsb', s.statusWord_getLsbD]
  obtain rfl | rfl : i = 0 ∨ i = 1 := by omega
  all_goals rfl

theorem State.statusWord_err (s : State) : s.statusWord.extractLsb' 8 6 = s.err := by
  refine BitVec.eq_of_getLsbD_eq fun i hi => ?_
  simp [s.statusWord_getLsbD_err, hi]

theorem State.statusWord_reserved_31_14 (s : State) : s.statusWord.extractLsb' 14 18 = 0#18 := by
  refine BitVec.eq_of_getLsbD_eq fun i hi => ?_
  have pastErr : s.err.getLsbD (6 + i) = false := BitVec.getLsbD_of_ge _ _ (by omega)
  rw [BitVec.getLsbD_extractLsb', Nat.add_assoc 8 6 i, s.statusWord_getLsbD_err, pastErr]
  simp

/-- A FIFO that is not full has room (R44). -/
theorem not_full_eq (depth : Nat) (q : List Byte) : (!full depth q) = decide (q.length < depth) := by
  rw [full, ← decide_not, decide_eq_decide, Nat.not_le]

/-- TXRDY with the room in the TX FIFO written as an inequality (R27, R44). -/
theorem State.txrdy_eq (s : State) :
    s.txrdy = (decide (s.phase = .run) && s.seg.txp && decide (s.txCount < s.seg.len.toNat) &&
      decide ((s.ctl s.ctrlSel).txf.length < s.cfg.txd)) := by
  rw [State.txrdy, not_full_eq, State.sel]

/-- RXAVL with the RX FIFO's filling written as an inequality (R28). -/
theorem State.rxavl_eq (s : State) :
    s.rxavl = (decide (s.phase = .run) && s.seg.rxp && decide (0 < (s.ctl s.ctrlSel).rxf.length)) := by
  have nonempty (q : List Byte) : (!q.isEmpty) = decide (0 < q.length) := by cases q <;> simp
  rw [State.rxavl, nonempty, State.sel]

/-- Settles O16, field by field along the table of R24. -/
theorem statusWordBits : Obligations.StatusWordBits := by
  intro s
  exact ⟨s.statusWord_getLsbD 0, s.statusWord_getLsbD 1,
    (s.statusWord_getLsbD 2).trans s.txrdy_eq, (s.statusWord_getLsbD 3).trans s.rxavl_eq,
    s.statusWord_ctrlSel, s.statusWord_getLsbD 5,
    s.statusWord_reserved_7_6, s.statusWord_err, s.statusWord_reserved_31_14⟩

end Sys2Proof.Machine
end

section
/-! PROOF. The CMD port by the decode table (R94), OP by OP, and obligation O11. -/

namespace Sys2Proof.Machine

/-! ### The order of a command's checks (R222) -/

theorem issueCommand_of_busy {s : State} (busy : s.phase ≠ .idle) (legal : Bool) (body : State → State) :
    issueCommand legal body s = raiseError .busy s := if_pos busy

theorem issueCommand_of_idle {s : State} (idle : s.phase = .idle) (legal : Bool) (body : State → State) :
    issueCommand legal body s = if legal then body s else raiseError .cmd s := if_neg (not_not_intro idle)

/-- Whatever a CMD word decodes to, it reaches the command port. -/
theorem commandWrite_of_busy {s : State} (busy : s.phase ≠ .idle) (w : Word) :
    commandWrite w s = raiseError .busy s := by
  unfold commandWrite
  split
  all_goals exact issueCommand_of_busy busy _ _

/-- The legality of an SSMASK in the words of R94. -/
theorem ssmaskLegal_iff (ncs : Nat) (m : Byte) :
    ssmaskLegal ncs m = true ↔ m ≠ 0#8 ∧ m &&& (m - 1#8) = 0#8 ∧ idx m < ncs := by
  simp [ssmaskLegal, onehot, and_assoc]

/-! ### The decode table by OP (R94) -/

section
variable {w : Word}

theorem decodeCommand_of_xferOp (op : opOf w = 0x1) :
    decodeCommand w =
      if w.extractLsb' 8 24 = 0#24 then
        .ok (.xfer (w.getLsbD 4) (w.getLsbD 5) (w.getLsbD 6) (w.getLsbD 7))
      else .error .illegalCommand := by
  have op : (field w 0 4).toNat = 0x1 := op
  rw [decodeCommand, op]; rfl

theorem decodeCommand_of_selectOp (op : opOf w = 0x2) :
    decodeCommand w =
      if w.extractLsb' 16 16 = 0#16 ∧ w.extractLsb' 5 3 = 0#3 then
        .ok (.select (w.extractLsb' 4 1) (w.extractLsb' 8 8))
      else .error .illegalCommand := by
  have op : (field w 0 4).toNat = 0x2 := op
  rw [decodeCommand, op]; rfl

theorem decodeCommand_of_crcinitOp (op : opOf w = 0x3) :
    decodeCommand w = if w.extractLsb' 4 28 = 0#28 then .ok .crcinit else .error .illegalCommand := by
  have op : (field w 0 4).toNat = 0x3 := op
  rw [decodeCommand, op]; rfl

theorem decodeCommand_of_crcfeedOp (op : opOf w = 0x4) :
    decodeCommand w =
      if w.extractLsb' 16 16 = 0#16 ∧ w.extractLsb' 4 4 = 0#4 then .ok (.crcfeed (w.extractLsb' 8 8))
      else .error .illegalCommand := by
  have op : (field w 0 4).toNat = 0x4 := op
  rw [decodeCommand, op]; rfl

/-- A reserved OP decodes to an instruction of its own, which does what an ILLEGAL word does (R82, R87). -/
theorem decodeCommand_of_reservedOp (op : opOf w = 0x0 ∨ 0x5 ≤ opOf w) :
    ∃ i, decodeCommand w = .ok i ∧ ∀ s, exec i s = .next (issueCommand false id s) := by
  have op : (field w 0 4).toNat = 0x0 ∨ 0x5 ≤ (field w 0 4).toNat := op
  fun_cases decodeCommand w
  case case1 | case2 | case3 | case4 | case5 | case6 | case7 | case8 => omega
  all_goals exact ⟨_, rfl, fun _ => rfl⟩

end

/-! ### What a CMD write executes -/

section
variable {s : State} (idle : s.phase = .idle)
include idle

/-- In IDLE a CMD word that decodes does what its instruction does, and one that does not raises ERR_CMD. -/
theorem exec_cmdW_of_idle (w : Word) :
    exec (.cmdW w) s =
      match decodeCommand w with
      | .ok i => exec i s
      | .error _ => .next (raiseError .cmd s) := by
  have illegal : issueCommand false id s = raiseError .cmd s := issueCommand_of_idle idle false id
  change Host.Outcome.next (commandWrite w s) = _
  unfold commandWrite
  fun_cases decodeCommand w
  case case2 | case4 | case6 | case8 => exact congrArg Host.Outcome.next illegal
  all_goals rfl

/-- SELECT in IDLE with a mask that is not legal is an illegal command (R84). -/
theorem exec_select_of_illegalMask (ctrl : BitVec 1) {m : Byte} (illegal : ¬ ssmaskLegal s.cfg.ncs m = true) :
    exec (.select ctrl m) s = .next (raiseError .cmd s) :=
  congrArg Host.Outcome.next ((issueCommand_of_idle idle _ _).trans (if_neg illegal))

variable {w : Word}

theorem exec_cmdW_of_xferOp (op : opOf w = 0x1) :
    exec (.cmdW w) s =
      if w.extractLsb' 8 24 = 0#24 then
        exec (.xfer (w.getLsbD 4) (w.getLsbD 5) (w.getLsbD 6) (w.getLsbD 7)) s
      else .next (raiseError .cmd s) := by
  rw [exec_cmdW_of_idle idle, decodeCommand_of_xferOp op]
  split_ifs
  all_goals rfl

/-- SELECT's word is checked twice: its must-be-zero bits where it is decoded, its mask where it is executed
(log 14). -/
theorem exec_cmdW_of_selectOp (op : opOf w = 0x2) :
    exec (.cmdW w) s =
      if w.extractLsb' 16 16 = 0#16 ∧ w.extractLsb' 5 3 = 0#3 ∧
          ssmaskLegal s.cfg.ncs (w.extractLsb' 8 8) = true then
        exec (.select (w.extractLsb' 4 1) (w.extractLsb' 8 8)) s
      else .next (raiseError .cmd s) := by
  rw [exec_cmdW_of_idle idle, decodeCommand_of_selectOp op]
  by_cases zero : w.extractLsb' 16 16 = 0#16 ∧ w.extractLsb' 5 3 = 0#3
  · obtain ⟨high, low⟩ := zero
    by_cases legal : ssmaskLegal s.cfg.ncs (w.extractLsb' 8 8) = true
    · rw [if_pos ⟨high, low⟩, if_pos ⟨high, low, legal⟩]
    · rw [if_pos ⟨high, low⟩, if_neg fun ⟨_, _, h⟩ => legal h]
      exact exec_select_of_illegalMask idle _ legal
  · rw [if_neg zero, if_neg fun ⟨high, low, _⟩ => zero ⟨high, low⟩]

theorem exec_cmdW_of_crcinitOp (op : opOf w = 0x3) :
    exec (.cmdW w) s = if w.extractLsb' 4 28 = 0#28 then exec .crcinit s else .next (raiseError .cmd s) := by
  rw [exec_cmdW_of_idle idle, decodeCommand_of_crcinitOp op]
  split_ifs
  all_goals rfl

theorem exec_cmdW_of_crcfeedOp (op : opOf w = 0x4) :
    exec (.cmdW w) s =
      if w.extractLsb' 16 16 = 0#16 ∧ w.extractLsb' 4 4 = 0#4 then exec (.crcfeed (w.extractLsb' 8 8)) s
      else .next (raiseError .cmd s) := by
  rw [exec_cmdW_of_idle idle, decodeCommand_of_crcfeedOp op]
  split_ifs
  all_goals rfl

theorem exec_cmdW_of_reservedOp (op : opOf w = 0x0 ∨ 0x5 ≤ opOf w) :
    exec (.cmdW w) s = .next (raiseError .cmd s) := by
  obtain ⟨i, decoded, effect⟩ := decodeCommand_of_reservedOp op
  rw [exec_cmdW_of_idle idle, decoded]
  exact (effect s).trans (congrArg Host.Outcome.next (issueCommand_of_idle idle false id))

end

/-- Settles O11, by the phase and then by the OP: at each OP one line of the table is left. -/
theorem cmdWriteFollowsDecodeTable : Obligations.CmdWriteFollowsDecodeTable := by
  intro w s
  refine ⟨⟨commandWrite w s, rfl⟩, ?_⟩
  by_cases idle : s.phase = .idle
  · rw [if_neg (not_not_intro idle)]
    have ops : opOf w = 0x1 ∨ opOf w = 0x2 ∨ opOf w = 0x3 ∨ opOf w = 0x4 ∨ (opOf w = 0x0 ∨ 0x5 ≤ opOf w) := by omega
    obtain op | op | op | op | op := ops
    · simp [exec_cmdW_of_xferOp idle op, op]
    · simp [exec_cmdW_of_selectOp idle op, op, ssmaskLegal_iff]
    · simp [exec_cmdW_of_crcinitOp idle op, op]
    · simp [exec_cmdW_of_crcfeedOp idle op, op]
    · rw [exec_cmdW_of_reservedOp idle op]
      repeat rw [if_neg (by omega)]
  · rw [if_pos idle]
    exact congrArg Host.Outcome.next (commandWrite_of_busy idle w)

end Sys2Proof.Machine
end

section
/-! PROOF. XFER's acceptance (R101 to R103) and the two byte ports (R104 to R107): obligations O21, O22 and O23. -/

namespace Sys2Proof.Machine

/-! ### XFER -/

/-- "assert CS" as one update: where SS was already 1 it changes nothing (R103). -/
theorem assertCs_eq (s : State) :
    assertCs s =
      { (if s.ss then s else s.setSel { s.sel with auxCs := true }) with
        ss := true, trace := s.trace ++ if s.ss then [] else [.csLow s.ctrlSel s.line] } := by
  by_cases low : s.ss = true
  · have same : s = { s with ss := true, trace := s.trace ++ [] } := by rw [← low, List.append_nil]
    rw [assertCs, if_pos low, if_pos low, if_pos low]
    exact same
  · rw [assertCs, if_neg low, if_neg low, if_neg low]
    rfl

/-- Settles O21, by the order of XFER's checks: ERR_BUSY, then ERR_NOINIT, then acceptance. -/
theorem xferAcceptance : Obligations.XferAcceptance := by
  intro txp rxp last crcen s
  refine ⟨fun idle init => ⟨_, rfl, ?_⟩, fun idle noInit => ?_, fun busy => ?_⟩
  · have accepted : issueCommand true (xferBody txp rxp last crcen) s = acceptSegment txp rxp last crcen s :=
      (issueCommand_of_idle idle _ _).trans (if_pos init)
    refine congrArg Host.Outcome.next (accepted.trans ?_)
    rw [acceptSegment, assertCs_eq]
    rfl
  · have refused : xferBody txp rxp last crcen s = raiseError .noinit s := if_neg (by simp [noInit])
    exact congrArg Host.Outcome.next ((issueCommand_of_idle idle _ _).trans refused)
  · exact congrArg Host.Outcome.next (issueCommand_of_busy busy _ _)

/-! ### The ready flags, by their causes -/

/-- TXRDY (R27, R104). -/
theorem State.txrdy_iff (s : State) :
    s.txrdy = true ↔
      s.phase = .run ∧ s.seg.txp = true ∧ s.txCount < s.seg.len.toNat ∧ s.sel.txf.length < s.cfg.txd := by
  simp [s.txrdy_eq, State.sel, and_assoc]

/-- RXAVL (R28, R106). -/
theorem State.rxavl_iff (s : State) :
    s.rxavl = true ↔ s.phase = .run ∧ s.seg.rxp = true ∧ s.sel.rxf ≠ [] := by
  simp [State.rxavl, and_assoc]

/-- The four causes of TXRDY = 0 (R105). -/
theorem State.txrdy_eq_false_iff (s : State) :
    s.txrdy = false ↔
      s.phase ≠ .run ∨ s.seg.txp = false ∨ s.seg.len.toNat ≤ s.txCount ∨ s.cfg.txd ≤ s.sel.txf.length := by
  rw [← Bool.not_eq_true, s.txrdy_iff]
  simp only [not_and_or, Bool.not_eq_true, Nat.not_lt, ne_eq]

/-- The three causes of RXAVL = 0 (R107). -/
theorem State.rxavl_eq_false_iff (s : State) :
    s.rxavl = false ↔ s.phase ≠ .run ∨ s.seg.rxp = false ∨ s.sel.rxf = [] := by
  rw [← Bool.not_eq_true, s.rxavl_iff]
  simp only [not_and_or, Bool.not_eq_true, ne_eq, not_not]

/-! ### The byte ports -/

/-- The byte a TXDATA write carries is bits [7:0] (R31). -/
theorem lowByte_eq_extractLsb' (v : Word) : lowByte v = v.extractLsb' 0 8 :=
  BitVec.setWidth_eq_extractLsb' (by decide)

/-- Settles O22, by the flag TXRDY. -/
theorem txdataWriteEffect : Obligations.TxdataWriteEffect := by
  intro s v
  rw [s.statusWord_getLsbD]
  change (s.txrdy = true → _) ∧ (s.txrdy = false → _) ∧ (s.txrdy = false ↔ _)
  refine ⟨fun ready => ?_, fun notReady => ?_, s.txrdy_eq_false_iff⟩
  · rw [← lowByte_eq_extractLsb']
    exact congrArg Host.Outcome.next (txdataWrite_of_ready v s ready)
  · exact congrArg Host.Outcome.next (txdataWrite_of_not_ready v s notReady)

/-- Settles O23, by the flag RXAVL. -/
theorem rxdataReadEffect : Obligations.RxdataReadEffect := by
  intro s b rest
  rw [s.statusWord_getLsbD]
  change (s.rxavl = true → _) ∧ (s.rxavl = false → _) ∧ (s.rxavl = false ↔ _)
  refine ⟨fun avl oldest => ?_, fun notAvl => ?_, s.rxavl_eq_false_iff⟩
  · exact congrArg Host.Outcome.next (rxdataRead_of_available s b rest avl oldest)
  · exact congrArg Host.Outcome.next (rxdataRead_of_not_available s notAvl)

end Sys2Proof.Machine
end

section
/-! PROOF. The sequencer's steps, each by its enabling condition and its effect (R108 to R114): obligations O24, O25,
O26 and O41. -/

namespace Sys2Proof.Machine

theorem blockStep_of_enabled {b : BlockStep} {s : State} (on : enabled b s = true) :
    blockStep b s = stepEffect b s := if_pos on

theorem blockStep_of_not_enabled {b : BlockStep} {s : State} (off : ¬ enabled b s = true) :
    blockStep b s = s := if_neg off

/-! ### When each step is enabled -/

/-- TXE: no data byte and no dummy byte is waiting (R49). -/
theorem Ctl.txe_iff (k : Ctl) : k.txe = true ↔ k.txf = [] ∧ k.dummyPending = 0 := by
  simp [Ctl.txe]

/-- No transfer in progress (R49). -/
theorem Ctl.xbusy_eq_false_iff (k : Ctl) :
    k.xbusy = false ↔ k.shBusy = false ∧ k.txf = [] ∧ k.dummyPending = 0 := by
  simp [Ctl.xbusy, k.txe_iff]

/-- R108. -/
theorem enabled_dummyBurst_iff (s : State) :
    enabled .dummyBurst s = true ↔
      s.phase = .run ∧ s.seg.txp = false ∧ s.txCount < s.seg.len.toNat ∧
        s.sel.txf = [] ∧ s.sel.dummyPending = 0 := by
  simp [enabled, Ctl.txe_iff, and_assoc]

/-- R110. -/
theorem enabled_discard_iff (s : State) :
    enabled .discard s = true ↔ s.phase = .run ∧ s.seg.rxp = false ∧ s.sel.rxf ≠ [] := by
  simp [enabled, Ctl.rxne, and_assoc]

/-- R111. -/
theorem enabled_endRun_iff (s : State) :
    enabled .endRun s = true ↔
      s.phase = .run ∧ s.txCount = s.seg.len.toNat ∧ s.rxCount = s.seg.len.toNat := by
  simp [enabled, and_assoc]

/-- R112. -/
theorem enabled_leaveTail_iff (s : State) :
    enabled .leaveTail s = true ↔
      s.phase = .tail ∧ s.sel.shBusy = false ∧ s.sel.txf = [] ∧ s.sel.dummyPending = 0 := by
  simp [enabled, Ctl.xbusy_eq_false_iff]

/-! ### What each step does -/

/-- R110: the oldest byte is taken, as an RXDATA read would take it. -/
theorem discardByte_of_cons {s : State} {b : Byte} {rest : List Byte} (oldest : s.sel.rxf = b :: rest) :
    discardByte s = takeByte b rest s := by
  rw [discardByte, oldest]

/-- Settles O24. -/
theorem dummyBurstStep : Obligations.DummyBurstStep := by
  intro s
  exact ⟨enabled_dummyBurst_iff s, blockStep_of_enabled⟩

/-- Settles O25. -/
theorem discardStep : Obligations.DiscardStep := by
  intro s b rest
  exact ⟨enabled_discard_iff s, fun on oldest => (blockStep_of_enabled on).trans (discardByte_of_cons oldest)⟩

/-- Settles O26: the end of RUN, and the step that leaves TAIL by LAST. -/
theorem segmentEndSteps : Obligations.SegmentEndSteps := by
  intro s
  refine ⟨enabled_endRun_iff s, blockStep_of_enabled, enabled_leaveTail_iff s, fun on last => ?_, fun on notLast => ?_⟩
  · have released : leaveTail s = releaseCs s := if_pos last
    exact (blockStep_of_enabled on).trans released
  · have held : leaveTail s = { s with phase := .idle } := if_neg (by simp [notLast])
    exact (blockStep_of_enabled on).trans held

/-- Settles O41, by the record of the segment, at the count where all its bytes are asked for. -/
theorem dummyBurstSizes : Obligations.DummyBurstSizes := by
  intro s _ record running noTx asked
  obtain ⟨sizes, total⟩ := record.bursts running noTx
  rw [asked] at sizes total
  exact ⟨sizes.trans (burstSizes_full _), total⟩

end Sys2Proof.Machine
end

section
/-! PROOF. The ready flags are stable (R128), obligation O36: an act of the machine keeps a flag that is 1, or is the
access the flag stands for. -/

namespace Sys2Proof.Machine

/-- `t` agrees with `s` in all that the ready flags read (R27, R28). -/
structure SameTransfer (s t : State) : Prop where
  phase : t.phase = s.phase
  seg : t.seg = s.seg
  txCount : t.txCount = s.txCount
  cfg : t.cfg = s.cfg
  sel : t.sel = s.sel

section
variable {s t : State}

theorem SameTransfer.txrdy_eq (same : SameTransfer s t) : t.txrdy = s.txrdy := by
  rw [State.txrdy, same.phase, same.seg, same.txCount, same.cfg, same.sel, State.txrdy]

theorem SameTransfer.rxavl_eq (same : SameTransfer s t) : t.rxavl = s.rxavl := by
  rw [State.rxavl, same.phase, same.seg, same.sel, State.rxavl]

theorem running_of_txrdy (ready : s.txrdy = true) : s.phase ≠ .idle := by
  simp [(s.txrdy_iff.mp ready).1]

theorem running_of_rxavl (avl : s.rxavl = true) : s.phase ≠ .idle := by
  simp [(s.rxavl_iff.mp avl).1]

/-- What an instruction does while a segment runs: the transfer is touched by the two byte ports alone. -/
theorem exec_of_running {i : Instr} (running : s.phase ≠ .idle) (next : exec i s = .next t) :
    (∃ v, i = .txdataW v ∧ t = txdataWrite v s) ∨ (i = .rxdataR ∧ t = rxdataRead s) ∨ SameTransfer s t := by
  have command (legal : Bool) (body : State → State) : SameTransfer s (issueCommand legal body s) := by
    rw [issueCommand_of_busy running]
    exact ⟨rfl, rfl, rfl, rfl, rfl⟩
  cases i
  case txdataW v => cases next; exact .inl ⟨v, rfl, rfl⟩
  case rxdataR => cases next; exact .inr (.inl ⟨rfl, rfl⟩)
  case cmdW w =>
    cases next
    rw [commandWrite_of_busy running]
    exact .inr (.inr ⟨rfl, rfl, rfl, rfl, rfl⟩)
  case ignored a =>
    cases a
    all_goals
      cases next
      exact .inr (.inr ⟨rfl, rfl, rfl, rfl, rfl⟩)
  case lenW | lenR | statusR | statusW | selR | crcR | read | read4 | pp | pp4 | se | se4 | wren | wrdi | rdsr1 | rdid =>
    cases next
    exact .inr (.inr ⟨rfl, rfl, rfl, rfl, rfl⟩)
  all_goals
    cases next
    exact .inr (.inr (command _ _))

/-! ### The block's own steps keep the flags -/

/-- An available byte is one that is asked for and not yet taken, so RUN cannot end (R120). -/
theorem Inv.not_enabled_endRun_of_rxavl (inv : Inv s) (avl : s.rxavl = true) : ¬ enabled .endRun s = true := by
  intro on
  obtain ⟨-, asked, taken⟩ := (enabled_endRun_iff s).mp on
  obtain ⟨-, -, nonempty⟩ := s.rxavl_iff.mp avl
  have := inv.count (running_of_rxavl avl)
  have := List.length_pos_iff.mpr nonempty
  omega

@[simp] theorem takeByte_sel (b : Byte) (rest : List Byte) (s : State) :
    (takeByte b rest s).sel = { s.sel with rxf := rest } := State.setSel_sel s _

/-- Shifter start changes the selected core alone: its TX FIFO gives up its oldest byte, if any, and its RX FIFO
stays (R115). -/
theorem startByte_eq_setSel (s : State) :
    ∃ k : Ctl, startByte s = s.setSel k ∧ k.txf = s.sel.txf.tail ∧ k.rxf = s.sel.rxf := by
  unfold startByte
  split
  case h_1 b rest oldest => exact ⟨_, rfl, by rw [oldest, List.tail_cons], rfl⟩
  case h_2 empty => exact ⟨_, rfl, by rw [empty, List.tail_nil], rfl⟩

@[simp] theorem endByte_sel (s : State) :
    (endByte s).sel = { s.sel with rxf := pushRx s (drawMiso s), shBusy := false } := State.setSel_sel s _

/-- A byte that ends takes none from the RX FIFO, under either policy (R116, R117). -/
theorem pushRx_ne_nil (m : Byte) (nonempty : s.sel.rxf ≠ []) : pushRx s m ≠ [] := by
  unfold pushRx
  split <;> simp [nonempty]

/-- TXRDY = 1 excludes a dummy burst (R108) and both ends of the segment (R111, R112); the other steps put nothing
into the TX FIFO. -/
theorem blockStep_txrdy (b : BlockStep) (ready : s.txrdy = true) : (blockStep b s).txrdy = true := by
  by_cases on : enabled b s = true
  case neg => rwa [blockStep_of_not_enabled on]
  rw [blockStep_of_enabled on]
  obtain ⟨run, txp, left, room⟩ := s.txrdy_iff.mp ready
  cases b
  case dummyBurst => simp [enabled_dummyBurst_iff, txp] at on
  case endRun => rw [enabled_endRun_iff] at on; omega
  case leaveTail => simp [enabled_leaveTail_iff, run] at on
  case discard =>
    obtain ⟨-, -, nonempty⟩ := (enabled_discard_iff s).mp on
    obtain ⟨b, rest, oldest⟩ := List.exists_cons_of_ne_nil nonempty
    rw [stepEffect, discardByte_of_cons oldest, State.txrdy_iff, takeByte_sel]
    exact ⟨run, txp, left, room⟩
  case shiftStart =>
    obtain ⟨k, effect, txf, -⟩ := startByte_eq_setSel s
    have shorter : k.txf.length ≤ s.sel.txf.length := by simp [txf]
    rw [stepEffect, effect, State.txrdy_iff, State.setSel_sel]
    exact ⟨run, txp, left, shorter.trans_lt room⟩
  case shiftEnd =>
    rw [stepEffect, State.txrdy_iff, endByte_sel]
    exact ⟨run, txp, left, room⟩

/-- RXAVL = 1 excludes a discard (R110) and both ends of the segment (R111, R112); the other steps take nothing from
the RX FIFO. -/
theorem Inv.blockStep_rxavl (inv : Inv s) (b : BlockStep) (avl : s.rxavl = true) :
    (Machine.blockStep b s).rxavl = true := by
  by_cases on : enabled b s = true
  case neg => rwa [blockStep_of_not_enabled on]
  rw [blockStep_of_enabled on]
  obtain ⟨run, rxp, nonempty⟩ := s.rxavl_iff.mp avl
  cases b
  case discard => simp [enabled_discard_iff, rxp] at on
  case endRun => exact absurd on (inv.not_enabled_endRun_of_rxavl avl)
  case leaveTail => simp [enabled_leaveTail_iff, run] at on
  case dummyBurst =>
    have after : (issueBurst s).sel = { s.sel with dummyPending := burstSize s } := State.setSel_sel s _
    rw [stepEffect, State.rxavl_iff, after]
    exact ⟨run, rxp, nonempty⟩
  case shiftStart =>
    obtain ⟨k, effect, -, rxf⟩ := startByte_eq_setSel s
    rw [stepEffect, effect, State.rxavl_iff, State.setSel_sel, rxf]
    exact ⟨run, rxp, nonempty⟩
  case shiftEnd =>
    rw [stepEffect, State.rxavl_iff, endByte_sel]
    exact ⟨run, rxp, pushRx_ne_nil _ nonempty⟩

/-! ### The byte ports -/

/-- The TXDATA access is accepted from `s` to `t`: its byte is pushed and counted (R104). -/
def TxAccepted (s t : State) : Prop := ∃ b, t.sel.txf = s.sel.txf ++ [b] ∧ t.txCount = s.txCount + 1

/-- The RXDATA access is accepted from `s` to `t`: the oldest byte is taken, counted and returned (R106). -/
def RxAccepted (s t : State) : Prop :=
  ∃ b : Byte, s.sel.rxf = b :: t.sel.rxf ∧ t.rxCount = s.rxCount + 1 ∧ t.reads = s.reads ++ [b.zeroExtend 32]

theorem txdataWrite_sel (v : Word) (ready : s.txrdy = true) :
    (txdataWrite v s).sel = s.sel.pushTx (lowByte v) := by
  rw [txdataWrite_of_ready v s ready]
  exact State.setSel_sel s _

theorem txdataWrite_accepted (v : Word) (ready : s.txrdy = true) : TxAccepted s (txdataWrite v s) := by
  refine ⟨lowByte v, by rw [txdataWrite_sel v ready]; rfl, ?_⟩
  rw [txdataWrite_of_ready v s ready]

/-- A TXDATA write, accepted or refused, leaves what RXAVL reads (R104, R105). -/
theorem txdataWrite_rxavl (v : Word) (s : State) : (txdataWrite v s).rxavl = s.rxavl := by
  by_cases ready : s.txrdy = true
  · rw [State.rxavl, txdataWrite_sel v ready, txdataWrite_of_ready v s ready]
    rfl
  · rw [txdataWrite_of_not_ready v s (by simpa using ready)]
    rfl

theorem takeByte_accepted {b : Byte} {rest : List Byte} (oldest : s.sel.rxf = b :: rest) :
    RxAccepted s (returnRead (b.zeroExtend 32) (takeByte b rest s)) :=
  ⟨b, by simpa using oldest, rfl, rfl⟩

theorem takeByte_txrdy (b : Byte) (rest : List Byte) (s : State) : (takeByte b rest s).txrdy = s.txrdy := by
  rw [State.txrdy, takeByte_sel]
  rfl

/-- An RXDATA read, accepted or refused, leaves what TXRDY reads (R106, R107). -/
theorem rxdataRead_txrdy (s : State) : (rxdataRead s).txrdy = s.txrdy := by
  unfold rxdataRead
  split
  case isTrue =>
    split
    case h_1 b rest _ => exact takeByte_txrdy b rest s
    case h_2 => rfl
  case isFalse => rfl

/-! ### Acts and steps -/

/-- An act keeps TXRDY or is the accepted TXDATA write. -/
theorem Act.txrdy (act : Act s t) (ready : s.txrdy = true) : t.txrdy = true ∨ TxAccepted s t := by
  have running := running_of_txrdy ready
  cases act
  case accept idle _ => exact absurd idle running
  case select idle _ _ => exact absurd idle running
  case crc idle => exact absurd idle running
  case feed v _ => exact .inr (txdataWrite_accepted v ready)
  case take b rest _ _ => exact .inl ((takeByte_txrdy b rest s).trans ready)
  case block b on => exact .inl (blockStep_of_enabled on ▸ blockStep_txrdy b ready)
  case notLegal isRead => cases isRead <;> exact .inl ready
  all_goals exact .inl ready

/-- An act keeps RXAVL or is the accepted RXDATA read. -/
theorem Act.rxavl (act : Act s t) (inv : Inv s) (avl : s.rxavl = true) : t.rxavl = true ∨ RxAccepted s t := by
  have running := running_of_rxavl avl
  cases act
  case accept idle _ => exact absurd idle running
  case select idle _ _ => exact absurd idle running
  case crc idle => exact absurd idle running
  case feed v _ => exact .inl ((txdataWrite_rxavl v s).trans avl)
  case take oldest _ => exact .inr (takeByte_accepted oldest)
  case block b on => exact .inl (blockStep_of_enabled on ▸ inv.blockStep_rxavl b avl)
  case notLegal isRead => cases isRead <;> exact .inl avl
  all_goals exact .inl avl

/-- The requester's doing and the schedule, around the act, are nothing that TXRDY or the access reads. -/
theorem Acts.txrdy (acts : Acts s t) (ready : s.txrdy = true) : t.txrdy = true ∨ TxAccepted s t := by
  obtain ⟨u, v, before, act, after⟩ := acts
  rw [SameBlock] at before after
  rw [before] at act
  rw [after]
  exact act.txrdy ready

theorem Acts.rxavl (acts : Acts s t) (inv : Inv s) (avl : s.rxavl = true) : t.rxavl = true ∨ RxAccepted s t := by
  obtain ⟨u, v, before, act, after⟩ := acts
  rw [SameBlock] at before after
  rw [before] at act
  rw [after]
  exact act.rxavl (inv.of_eq rfl rfl rfl rfl rfl rfl rfl rfl rfl rfl) avl

/-- A step that is no reset is an act between changes of requester and schedule. -/
theorem acts_of_step_not_reset (next : step s = .next t) (noReset : ∀ rest, s.turns ≠ .reset :: rest) : Acts s t :=
  (step_acts s t next).resolve_left fun ⟨rest, reset, _⟩ => noReset rest reset

/-- Every instruction but the TXDATA write keeps TXRDY. -/
theorem exec_txrdy {i : Instr} (next : exec i s = .next t) (other : ∀ v, i ≠ .txdataW v) (ready : s.txrdy = true) :
    t.txrdy = true := by
  obtain ⟨v, isWrite, -⟩ | ⟨-, rfl⟩ | same := exec_of_running (running_of_txrdy ready) next
  · exact absurd isWrite (other v)
  · exact (rxdataRead_txrdy s).trans ready
  · exact same.txrdy_eq.trans ready

/-- Every instruction but the RXDATA read keeps RXAVL. -/
theorem exec_rxavl {i : Instr} (next : exec i s = .next t) (other : i ≠ .rxdataR) (avl : s.rxavl = true) :
    t.rxavl = true := by
  obtain ⟨v, -, rfl⟩ | ⟨isRead, -⟩ | same := exec_of_running (running_of_rxavl avl) next
  · exact (txdataWrite_rxavl v s).trans avl
  · exact absurd isRead other
  · exact same.rxavl_eq.trans avl

/-- A TXDATA write with TXRDY = 1 is not refused. -/
theorem exec_txdataW_accepted (v : Word) (ready : s.txrdy = true) :
    ∃ t, exec (.txdataW v) s = .next t ∧ t.err = s.err ∧ t.marks = s.marks ∧
      t.sel.txf = s.sel.txf ++ [v.extractLsb' 0 8] := by
  refine ⟨txdataWrite v s, rfl, ?_, ?_, ?_⟩
  · rw [txdataWrite_of_ready v s ready]; rfl
  · rw [txdataWrite_of_ready v s ready]; rfl
  · rw [txdataWrite_sel v ready, ← lowByte_eq_extractLsb']; rfl

/-- An RXDATA read with RXAVL = 1 is not refused. -/
theorem exec_rxdataR_accepted (avl : s.rxavl = true) :
    ∃ (b : Byte) (t : State), exec .rxdataR s = .next t ∧ t.err = s.err ∧ t.marks = s.marks ∧
      s.sel.rxf = b :: t.sel.rxf ∧ t.reads = s.reads ++ [b.zeroExtend 32] := by
  obtain ⟨-, -, nonempty⟩ := s.rxavl_iff.mp avl
  obtain ⟨b, rest, oldest⟩ := List.exists_cons_of_ne_nil nonempty
  refine ⟨b, _, congrArg Host.Outcome.next (rxdataRead_of_available s b rest avl oldest), rfl, rfl, ?_, rfl⟩
  simpa using oldest

end

/-- Settles O36: each clause is one lemma above, read through bits 2 and 3 of STATUS. -/
theorem readyFlagsAreStable : Obligations.ReadyFlagsAreStable := by
  intro s inv
  simp only [State.statusWord_getLsbD, State.statusBit]
  exact ⟨fun b => blockStep_txrdy b, fun b => inv.blockStep_rxavl b,
    fun i t next other => exec_txrdy next other, fun i t next other => exec_rxavl next other,
    fun t next noReset => (acts_of_step_not_reset next noReset).txrdy,
    fun t next noReset => (acts_of_step_not_reset next noReset).rxavl inv,
    fun ready v => exec_txdataW_accepted v ready, exec_rxdataR_accepted⟩

end Sys2Proof.Machine
end

section
/-! PROOF. The plain accesses to the registers (R142 to R147, R165): obligations O17, O18, O19 and O20. -/

namespace Sys2Proof.Machine

/-! ### The SEL and CRC words by their fields -/

theorem State.selWord_ctrlSel (s : State) : s.selWord.extractLsb' 0 1 = s.ctrlSel :=
  BitVec.extractLsb'_append_eq_right

theorem State.selWord_reserved_7_1 (s : State) : s.selWord.extractLsb' 1 7 = 0#7 :=
  (BitVec.extractLsb'_append_eq_of_le (by decide)).trans BitVec.extractLsb'_append_eq_right

theorem State.selWord_ssmask (s : State) : s.selWord.extractLsb' 8 8 = s.ssmask :=
  calc s.selWord.extractLsb' 8 8
    _ = (0#16 ++ s.ssmask ++ 0#7).extractLsb' 7 8 := BitVec.extractLsb'_append_eq_of_le (by decide)
    _ = (0#16 ++ s.ssmask).extractLsb' 0 8 := BitVec.extractLsb'_append_eq_of_le (by decide)
    _ = s.ssmask := BitVec.extractLsb'_append_eq_right

theorem State.selWord_reserved_31_16 (s : State) : s.selWord.extractLsb' 16 16 = 0#16 :=
  calc s.selWord.extractLsb' 16 16
    _ = (0#16 ++ s.ssmask ++ 0#7).extractLsb' 15 16 := BitVec.extractLsb'_append_eq_of_le (by decide)
    _ = (0#16 ++ s.ssmask).extractLsb' 8 16 := BitVec.extractLsb'_append_eq_of_le (by decide)
    _ = 0#16 := BitVec.extractLsb'_append_eq_left

/-- The CRC state stands below sixteen zeros (R35). -/
theorem State.crcWord_eq_append (s : State) : s.crcWord = 0#16 ++ s.crc :=
  BitVec.setWidth_eq_append (by decide)

theorem State.crcWord_crc (s : State) : s.crcWord.extractLsb' 0 16 = s.crc := by
  rw [s.crcWord_eq_append]
  exact BitVec.extractLsb'_append_eq_right

theorem State.crcWord_reserved_31_16 (s : State) : s.crcWord.extractLsb' 16 16 = 0#16 := by
  rw [s.crcWord_eq_append]
  exact BitVec.extractLsb'_append_eq_left

/-! ### The obligations -/

/-- Settles O17: each read returns its register's word, and the words of SEL and CRC are known field by field. -/
theorem plainReadsReturnRegisters : Obligations.PlainReadsReturnRegisters := by
  intro s
  exact ⟨rfl, rfl,
    ⟨s.selWord, rfl, s.selWord_ctrlSel, s.selWord_reserved_7_1, s.selWord_ssmask, s.selWord_reserved_31_16⟩,
    ⟨s.crcWord, rfl, s.crcWord_crc, s.crcWord_reserved_31_16⟩⟩

/-- Settles O18, access by access. -/
theorem ignoredAccessesDoNothing : Obligations.IgnoredAccessesDoNothing := by
  intro s v
  simp only [List.forall_mem_cons]
  exact ⟨⟨rfl, rfl, rfl, List.forall_mem_nil _⟩, ⟨rfl, rfl, rfl, rfl, List.forall_mem_nil _⟩⟩

/-- Settles O19: the write assigns LEN alone, and the read returns what the write left there. -/
theorem lenWriteReadBack : Obligations.LenWriteReadBack := by
  intro s v
  have written : exec (.lenW v) s = .next (lenWrite v s) := rfl
  have readBack : exec .lenR (lenWrite v s) = .next (returnRead v (lenWrite v s)) := rfl
  exact ⟨written, readBack⟩

/-- An error bit survives a STATUS write exactly where the bit written over it is 0 (R145). -/
theorem clearErrors_getLsbD_err (v : Word) (s : State) {j : Nat} (inErr : j < 6) :
    (clearErrors v s).err.getLsbD j = (s.err.getLsbD j && !v.getLsbD (8 + j)) := by
  simp [inErr]

/-- Settles O20, error bit by error bit. -/
theorem statusWriteClearsNamedBits : Obligations.StatusWriteClearsNamedBits := by
  intro s v
  exact ⟨(clearErrors v s).err, rfl, fun _ inErr => clearErrors_getLsbD_err v s inErr⟩

end Sys2Proof.Machine
end

section
/-! PROOF. SELECT case by case (R140), after the masks of one line (R84, R94): obligation O46. -/

namespace Sys2Proof.Machine

/-! ### Masks of one line -/

/-- A one-hot mask is the mask of the line it names (R38). -/
theorem eq_shiftLeft_idx_of_onehot {m : Byte} (hot : onehot m = true) : idx m < 8 ∧ m = 1#8 <<< idx m := by
  revert m
  decide

theorem onehot_shiftLeft {i : Nat} (line : i < 8) : onehot (1#8 <<< i) = true := by
  revert i
  decide

theorem idx_shiftLeft {i : Nat} (line : i < 8) : idx (1#8 <<< i) = i := by
  revert i
  decide

/-- The mask test of R94 accepts exactly the masks of one line the core has. -/
theorem ssmaskLegal_iff_oneLine (ncs : Nat) (m : Byte) : ssmaskLegal ncs m = true ↔ OneLine ncs m := by
  rw [ssmaskLegal, Bool.and_eq_true, decide_eq_true_iff]
  constructor
  · rintro ⟨hot, below⟩
    obtain ⟨line, isMask⟩ := eq_shiftLeft_idx_of_onehot hot
    exact ⟨idx m, below, line, isMask⟩
  · rintro ⟨i, below, line, rfl⟩
    exact ⟨onehot_shiftLeft line, by rwa [idx_shiftLeft line]⟩

/-! ### The command -/

/-- SELECT in IDLE with a legal mask reaches its body (R94, R140). -/
theorem exec_select_of_legalMask {s : State} (idle : s.phase = .idle) (c : BitVec 1) {m : Byte}
    (legal : ssmaskLegal s.cfg.ncs m = true) : exec (.select c m) s = .next (selectBody c m s) :=
  congrArg Host.Outcome.next ((issueCommand_of_idle idle _ _).trans (if_pos legal))

/-- Settles O46, by the order of SELECT's checks: ERR_BUSY, ERR_CMD, ERR_SEL, then the selection. -/
theorem selectEffect : Obligations.SelectEffect := by
  intro c m s
  rw [← ssmaskLegal_iff_oneLine]
  refine ⟨fun busy => ?_, fun idle illegal => exec_select_of_illegalMask idle c illegal,
    fun idle legal asserted => ?_, fun idle legal released => ?_⟩
  · exact congrArg Host.Outcome.next (issueCommand_of_busy busy _ _)
  · rw [exec_select_of_legalMask idle c legal, selectBody, if_pos asserted]
  · rw [exec_select_of_legalMask idle c legal, selectBody, if_neg (by simp [released])]

end Sys2Proof.Machine
end

section
/-! PROOF. The CRC unit (R160 to R168): CRCINIT and CRCFEED, the fold of a string, and the residue: obligations O47, O49
and O50. -/

namespace Sys2Proof.Machine

/-! ### The commands -/

section
variable {s : State} (idle : s.phase = .idle)
include idle

theorem exec_crcinit_of_idle : exec .crcinit s = .next { s with crc := Config.crcInit } :=
  congrArg Host.Outcome.next (issueCommand_of_idle idle true crcinitBody)

theorem exec_crcfeed_of_idle (d : Byte) : exec (.crcfeed d) s = .next { s with crc := crc16Upd s.crc d } :=
  congrArg Host.Outcome.next (issueCommand_of_idle idle true (crcfeedBody d))

/-- The word R86 gives CRCFEED does, written to CMD, what CRCFEED does. -/
theorem exec_cmdW_crcfeedWord (d : Byte) : exec (.cmdW (crcfeedWord d)) s = exec (.crcfeed d) s := by
  obtain ⟨isOp, high, low, data⟩ := Laws.crcfeed_fields d
  rw [exec_cmdW_of_crcfeedOp idle (congrArg BitVec.toNat isOp), if_pos ⟨high, low⟩]
  exact congrArg (fun b => exec (.crcfeed b) s) data

end

/-- Settles O47: the commands by their phase, the words by the two lines of the decode table. -/
theorem crcCommandsEffect : Obligations.CrcCommandsEffect := by
  intro d s
  refine ⟨fun idle => ⟨exec_crcinit_of_idle idle, exec_crcfeed_of_idle idle d, ?_, ?_⟩, fun busy => ⟨?_, ?_⟩,
    fun w idle op illegal => ?_, fun w idle op illegal => ?_⟩
  · rw [exec_cmdW_of_crcinitOp idle (by decide), if_pos (by decide)]
    exact exec_crcinit_of_idle idle
  · rw [exec_cmdW_crcfeedWord idle]
    exact exec_crcfeed_of_idle idle d
  · exact congrArg Host.Outcome.next (issueCommand_of_busy busy _ _)
  · exact congrArg Host.Outcome.next (issueCommand_of_busy busy _ _)
  · rw [exec_cmdW_of_crcinitOp idle op, if_neg illegal]
  · rw [exec_cmdW_of_crcfeedOp idle op, if_neg (not_and_or.mpr illegal)]

/-! ### Folding a string -/

theorem crcFold_cons (c : BitVec 16) (b : Byte) (bytes : List Byte) :
    crcFold c (b :: bytes) = crcFold (crc16Upd c b) bytes := rfl

theorem crcFold_append (c : BitVec 16) (one two : List Byte) : crcFold c (one ++ two) = crcFold (crcFold c one) two :=
  List.foldl_append

/-- One CRCFEED a byte folds the string into the CRC and changes nothing else; `feed` is any way to go on from a state
with CRCFEED. -/
theorem foldl_crcfeed {feed : Host.Outcome State Fault Refusal → Byte → Host.Outcome State Fault Refusal}
    (feeds : ∀ u b, feed (.next u) b = exec (.crcfeed b) u) (bytes : List Byte) {s : State} (idle : s.phase = .idle) :
    bytes.foldl feed (.next s) = .next { s with crc := crcFold s.crc bytes } := by
  induction bytes generalizing s with
  | nil => rfl
  | cons b bytes ih =>
    rw [List.foldl_cons, feeds, exec_crcfeed_of_idle idle, crcFold_cons]
    exact ih idle

/-- Settles O50: CRCINIT starts the fold that the CRCFEEDs continue, and a fold goes on from where it stopped. -/
theorem crcFeedsFoldTheString : Obligations.CrcFeedsFoldTheString := by
  refine ⟨fun bytes s idle => ?_, fun one two => (crcFold_append Config.crcInit one two).symm, rfl⟩
  rw [exec_crcinit_of_idle idle]
  exact foldl_crcfeed (fun _ _ => rfl) bytes idle

/-! ### The residue (R167) -/

/-- A round without a bit to carry out at the top only shifts (R160). -/
theorem crcShift_of_top_zero {c : BitVec 16} (top : c.getLsbD 15 = false) : crcShift c = c <<< 1 :=
  if_neg (ne_true_of_eq_false top)

/-- While the top `n` bits are 0, `n` rounds only shift: no bit reaches the top to bring in the polynomial. -/
theorem crcShifts_of_top_zero {n : Nat} {c : BitVec 16} (top : ∀ i, 16 ≤ i + n → c.getLsbD i = false) :
    crcShifts n c = c <<< n := by
  induction n generalizing c with
  | zero => exact (BitVec.shiftLeft_zero c).symm
  | succ n ih =>
    have shiftedTop : ∀ i, 16 ≤ i + n → (c <<< 1).getLsbD i = false := fun i high => by
      rw [BitVec.getLsbD_shiftLeft, top (i - 1) (by omega), Bool.and_false]
    rw [crcShifts, crcShift_of_top_zero (top 15 (by omega)), ih shiftedTop, ← BitVec.shiftLeft_add, Nat.add_comm]

/-- A byte equal to the CRC's upper one cancels it, and the lower one moves up. -/
theorem crc16Upd_highByte (c : BitVec 16) :
    crc16Upd c (c.extractLsb' 8 8) = (c.extractLsb' 0 8).zeroExtend 16 <<< 8 := by
  have cancelled : c ^^^ (c.extractLsb' 8 8).zeroExtend 16 <<< 8 = (c.extractLsb' 0 8).zeroExtend 16 := by
    refine BitVec.eq_of_getLsbD_eq fun i inWord => ?_
    by_cases low : i < 8
    · simp [low, inWord]
    · simp [low, inWord, show 8 + (i - 8) = i by omega, show i - 8 < 8 by omega]
  rw [crc16Upd, cancelled, crcShifts_of_top_zero]
  intro i high
  have pastByte : (c.extractLsb' 0 8).getLsbD i = false := BitVec.getLsbD_of_ge _ _ (by omega)
  simp [BitVec.getLsbD_setWidth, pastByte]

/-- A byte that is all the CRC holds, at its top, clears it. -/
theorem crc16Upd_self (b : Byte) : crc16Upd (b.zeroExtend 16 <<< 8) b = 0#16 := by
  rw [crc16Upd, BitVec.xor_self, crcShifts_of_top_zero fun i _ => BitVec.getLsbD_zero, BitVec.zero_shiftLeft]

/-- Settles O49: the upper byte of the CRC leaves the lower one at the top, and the lower one clears that. -/
theorem crcResidueIsZero : Obligations.CrcResidueIsZero := by
  intro bytes
  rw [crc16, crcFold_append, ← crc16, crcFold_cons, crc16Upd_highByte, crcFold_cons, crc16Upd_self]
  rfl

end Sys2Proof.Machine
end

section
/-! PROOF. The address rule (R180): the width of an offset, its bytes, and the headers of that width (R181): obligation
O6. -/

namespace Sys2Proof.Machine

/-! ### The width -/

theorem topByte_eq_zero_iff (off : Word) : off.extractLsb' 24 8 = 0#8 ↔ off.toNat < 0x01000000 := by
  have inWord : off.toNat < 2 ^ 32 := off.isLt
  rw [← BitVec.toNat_inj, BitVec.extractLsb'_toNat, BitVec.toNat_ofNat, Nat.shiftRight_eq_div_pow]
  omega

theorem abytes_eq_three_iff (off : Word) : abytes off = 3 ↔ off.toNat < 0x01000000 := by
  rw [← topByte_eq_zero_iff, abytes]
  split
  case isTrue top => simp [top]
  case isFalse top => simpa using top

/-- The width is 3 or 4. -/
theorem abytes_ne_four_iff (off : Word) : abytes off ≠ 4 ↔ abytes off = 3 := by
  rw [abytes]
  split <;> decide

theorem abytes_eq_four_iff (off : Word) : abytes off = 4 ↔ 0x01000000 ≤ off.toNat := by
  rw [← not_lt, ← abytes_eq_three_iff, ← abytes_ne_four_iff, not_not]

/-! ### The bytes -/

theorem addr_of_four {off : Word} (four : abytes off = 4) : addr off = bytes4 off := if_pos four

theorem addr_of_not_four {off : Word} (three : abytes off ≠ 4) : addr off = bytes3 (off.setWidth 24) := if_neg three

theorem addr_length (off : Word) : (addr off).length = abytes off := by
  by_cases four : abytes off = 4
  · rw [addr_of_four four, four]
    rfl
  · rw [addr_of_not_four four, (abytes_ne_four_iff off).mp four]
    rfl

/-- Joining a byte below a number is one round of reading a big-endian number. -/
theorem toNat_append_byte {w : Nat} (x : BitVec w) (b : Byte) : (x ++ b).toNat = x.toNat * 256 + b.toNat := by
  rw [BitVec.toNat_append, ← Nat.shiftLeft_add_eq_or_of_lt b.isLt, Nat.shiftLeft_eq]

theorem bytes3_bigEndian (off : BitVec 24) : (bytes3 off).foldl (fun n b => n * 256 + b.toNat) 0 = off.toNat := by
  conv_rhs => rw [← Laws.bytes3_join off]
  simp only [bytes3, List.foldl, toNat_append_byte, Nat.zero_mul, Nat.zero_add]

theorem bytes4_bigEndian (off : Word) : (bytes4 off).foldl (fun n b => n * 256 + b.toNat) 0 = off.toNat := by
  conv_rhs => rw [← Laws.bytes4_join off]
  simp only [bytes4, List.foldl, toNat_append_byte, Nat.zero_mul, Nat.zero_add]

/-- The address bytes are the whole offset: where three are sent, it has no bit above them. -/
theorem addr_bigEndian (off : Word) : (addr off).foldl (fun n b => n * 256 + b.toNat) 0 = off.toNat := by
  by_cases four : abytes off = 4
  · rw [addr_of_four four, bytes4_bigEndian]
  · have low : off.toNat < 2 ^ 24 := (abytes_eq_three_iff off).mp ((abytes_ne_four_iff off).mp four)
    rw [addr_of_not_four four, bytes3_bigEndian, BitVec.toNat_setWidth, Nat.mod_eq_of_lt low]

/-! ### The headers -/

theorem encode_flashReadInstr (dummy : Byte) (len off : Word) :
    encode dummy (flashReadInstr len off) = .frame (hdr 0x03#8 0x13#8 off ++ List.replicate len.toNat dummy) := by
  by_cases four : abytes off = 4 <;> simp [flashReadInstr, hdr, addr, encode, four]

theorem encode_flashProgramInstr (dummy : Byte) (src : List Byte) (off : Word) :
    encode dummy (flashProgramInstr src off) = .frame (hdr 0x02#8 0x12#8 off ++ src) := by
  by_cases four : abytes off = 4 <;> simp [flashProgramInstr, hdr, addr, encode, four]

theorem encode_flashEraseInstr (dummy : Byte) (off : Word) :
    encode dummy (flashEraseInstr off) = .frame (hdr 0xD8#8 0xDC#8 off) := by
  by_cases four : abytes off = 4 <;> simp [flashEraseInstr, hdr, addr, encode, four]

/-- Settles O6: the width by the offset's top byte, the bytes by joining them, and each command's frame, here with no
data. -/
theorem addressRule : Obligations.AddressRule := fun off dummy =>
  ⟨abytes_eq_four_iff off, abytes_eq_three_iff off, addr_length off, addr_bigEndian off,
    (encode_flashReadInstr dummy 0#32 off).trans (congrArg _ (List.append_nil _)),
    (encode_flashProgramInstr dummy [] off).trans (congrArg _ (List.append_nil _)),
    encode_flashEraseInstr dummy off⟩

end Sys2Proof.Machine
end

section
/-! PROOF. The order of a CMD write's checks (R222) and the single error of a step (R223): obligations O12 and O14. -/

namespace Sys2Proof.Machine

/-! ### Illegal words (R87) -/

/-- A must-be-zero bit that is 1 keeps a CMD word from decoding (R81). -/
theorem decodeCommand_of_reservedBitSet {w : Word} (set : ReservedBitSet w) :
    decodeCommand w = .error .illegalCommand := by
  obtain ⟨op, bits⟩ | ⟨op, bits⟩ | ⟨op, bits⟩ | ⟨op, bits⟩ := set
  · rw [decodeCommand_of_xferOp op, if_neg bits]
  · rw [decodeCommand_of_selectOp op, if_neg (not_and_or.mpr bits)]
  · rw [decodeCommand_of_crcinitOp op, if_neg bits]
  · rw [decodeCommand_of_crcfeedOp op, if_neg (not_and_or.mpr bits)]

section
variable {ncs : Nat} {w : Word} (legal : ¬ IllegalWord ncs w)
include legal

theorem bits_zero_of_legal_xferOp (op : opOf w = 0x1) : w.extractLsb' 8 24 = 0#24 :=
  not_not.mp fun bits => legal (.inr (.inl (.inl ⟨op, bits⟩)))

theorem bits_zero_of_legal_selectOp (op : opOf w = 0x2) :
    w.extractLsb' 16 16 = 0#16 ∧ w.extractLsb' 5 3 = 0#3 :=
  not_not.mp fun bits => legal (.inr (.inl (.inr (.inl ⟨op, not_and_or.mp bits⟩))))

theorem oneLine_of_legal_selectOp (op : opOf w = 0x2) : OneLine ncs (w.extractLsb' 8 8) :=
  not_not.mp fun mask => legal (.inr (.inr ⟨op, mask⟩))

end

/-! ### What a CMD write in IDLE raises (R222) -/

section
variable {s : State} (idle : s.phase = .idle) {w : Word}
include idle

theorem exec_cmdW_of_illegalWord (illegal : IllegalWord s.cfg.ncs w) :
    exec (.cmdW w) s = .next (raiseError .cmd s) := by
  obtain op | set | ⟨op, mask⟩ := illegal
  · exact exec_cmdW_of_reservedOp idle op
  · rw [exec_cmdW_of_idle idle, decodeCommand_of_reservedBitSet set]
  · rw [exec_cmdW_of_selectOp idle op, if_neg]
    rintro ⟨-, -, legal⟩
    exact mask ((ssmaskLegal_iff_oneLine _ _).mp legal)

variable (legal : ¬ IllegalWord s.cfg.ncs w)
include legal

/-- A legal SELECT word does what SELECT does. -/
theorem exec_cmdW_of_legal_selectOp (op : opOf w = 0x2) :
    exec (.cmdW w) s = exec (.select (w.extractLsb' 4 1) (w.extractLsb' 8 8)) s := by
  obtain ⟨high, low⟩ := bits_zero_of_legal_selectOp legal op
  have mask := (ssmaskLegal_iff_oneLine _ _).mpr (oneLine_of_legal_selectOp legal op)
  rw [exec_cmdW_of_selectOp idle op, if_pos ⟨high, low, mask⟩]

/-- A legal XFER word does what XFER does. -/
theorem exec_cmdW_of_legal_xferOp (op : opOf w = 0x1) :
    exec (.cmdW w) s = exec (.xfer (w.getLsbD 4) (w.getLsbD 5) (w.getLsbD 6) (w.getLsbD 7)) s := by
  rw [exec_cmdW_of_xferOp idle op, if_pos (bits_zero_of_legal_xferOp legal op)]

end

/-- Settles O12: the port looks at the phase, then at the word, and a legal SELECT or XFER word leaves the third
check and the fourth to its command. -/
theorem commandErrorPriority : Obligations.CommandErrorPriority := by
  intro w s
  refine ⟨fun busy => ?_, fun idle illegal => exec_cmdW_of_illegalWord idle illegal,
    fun idle legal op asserted => ?_, fun idle legal op noInit => ?_⟩
  · exact congrArg Host.Outcome.next (commandWrite_of_busy busy w)
  · obtain ⟨-, -, refused, -⟩ := selectEffect (w.extractLsb' 4 1) (w.extractLsb' 8 8) s
    exact (exec_cmdW_of_legal_selectOp idle legal op).trans
      (refused idle (oneLine_of_legal_selectOp legal op) asserted)
  · obtain ⟨-, refused, -⟩ := xferAcceptance (w.getLsbD 4) (w.getLsbD 5) (w.getLsbD 6) (w.getLsbD 7) s
    exact (exec_cmdW_of_legal_xferOp idle legal op).trans (refused idle noInit)

/-! ### Error bits and marks, operation by operation -/

/-- Each error kind has one bit of the six (R221). -/
theorem ErrKind.bit_eq_twoPow (k : ErrKind) : ∃ b, b < 6 ∧ k.bit = BitVec.twoPow 6 b := by
  cases k
  case cmd => exact ⟨0, by decide, rfl⟩
  case busy => exact ⟨1, by decide, rfl⟩
  case txw => exact ⟨2, by decide, rfl⟩
  case rxr => exact ⟨3, by decide, rfl⟩
  case sel => exact ⟨4, by decide, rfl⟩
  case noinit => exact ⟨5, by decide, rfl⟩

/-- `t` has the error bits and the marks of `s`. -/
structure SameErrors (s t : State) : Prop where
  err : t.err = s.err
  marks : t.marks = s.marks

theorem assertCs_sameErrors (s : State) : SameErrors s (assertCs s) := by
  unfold assertCs
  split
  all_goals exact ⟨rfl, rfl⟩

theorem discardByte_sameErrors (s : State) : SameErrors s (discardByte s) := by
  unfold discardByte
  split
  all_goals exact ⟨rfl, rfl⟩

theorem leaveTail_sameErrors (s : State) : SameErrors s (leaveTail s) := by
  unfold leaveTail
  split
  all_goals exact ⟨rfl, rfl⟩

theorem startByte_sameErrors (s : State) : SameErrors s (startByte s) := by
  obtain ⟨k, effect, -, -⟩ := startByte_eq_setSel s
  rw [effect]
  exact ⟨rfl, rfl⟩

/-- The end of a byte records it where the RX FIFO loses it, and nothing else (R117). -/
theorem endByte_marks (s : State) : (endByte s).marks = s.marks ∨ (endByte s).marks = s.marks ++ [.rxOverflow] :=
  (ite_eq_or_eq _ _ _).symm

/-- A reset marks nothing; only the trace may grow (R250, R251). -/
theorem platformReset_marks (s : State) : (platformReset s).marks = s.marks := by
  change (if s.ss then emit _ s else s).marks = s.marks
  split
  all_goals rfl

/-! ### At most one error (R223) -/

/-- From `s` to `t` at most one mark is added, and at most one error bit becomes 1. -/
structure AtMostOneError (s t : State) : Prop where
  marks : t.marks = s.marks ∨ ∃ m, t.marks = s.marks ++ [m]
  err : ∃ k, k < 6 ∧ ∀ j, j < 6 → j ≠ k → t.err.getLsbD j = true → s.err.getLsbD j = true

namespace AtMostOneError
variable {s t u : State}

theorem of_err_eq (err : t.err = s.err) (marks : t.marks = s.marks ∨ ∃ m, t.marks = s.marks ++ [m]) :
    AtMostOneError s t :=
  ⟨marks, 0, by decide, fun _ _ _ set => err ▸ set⟩

theorem of_same (same : SameErrors s t) : AtMostOneError s t := .of_err_eq same.err (.inl same.marks)

theorem of_raised (k : ErrKind) (err : t.err = s.err ||| k.bit) (marks : t.marks = s.marks ++ [.error k]) :
    AtMostOneError s t := by
  obtain ⟨b, inErr, bit⟩ := k.bit_eq_twoPow
  refine ⟨.inr ⟨_, marks⟩, b, inErr, fun j hj other set => ?_⟩
  have notRaised : (BitVec.twoPow 6 b).getLsbD j = false := by simp [other.symm]
  rwa [err, bit, BitVec.getLsbD_or, notRaised, Bool.or_false] at set

theorem clearErrors (v : Word) (s : State) : AtMostOneError s (clearErrors v s) := by
  refine ⟨.inl rfl, 0, by decide, fun j inErr _ set => ?_⟩
  rw [clearErrors_getLsbD_err v s inErr, Bool.and_eq_true] at set
  exact set.1

theorem ignoreAccess (isRead : Bool) (s : State) : AtMostOneError s (ignoreAccess isRead s) := by
  cases isRead
  all_goals exact .of_err_eq rfl (.inr ⟨.notLegal, rfl⟩)

/-- Of the block's steps only the end of a byte has an error to record, and that is no error bit (R117, R223). -/
theorem stepEffect (b : BlockStep) (s : State) : AtMostOneError s (stepEffect b s) := by
  cases b
  case discard => exact .of_same (discardByte_sameErrors s)
  case leaveTail => exact .of_same (leaveTail_sameErrors s)
  case shiftStart => exact .of_same (startByte_sameErrors s)
  case shiftEnd => exact .of_err_eq rfl ((endByte_marks s).imp_right fun lost => ⟨_, lost⟩)
  case dummyBurst | endRun => exact .of_same ⟨rfl, rfl⟩

/-- A reset clears every error bit (R51). -/
theorem platformReset (s : State) : AtMostOneError s (platformReset s) := by
  refine ⟨.inl (platformReset_marks s), 0, by decide, fun j _ _ set => ?_⟩
  have cleared : (Machine.platformReset s).err = 0#6 := rfl
  simp [cleared] at set

/-- The requester's doing and the schedule touch neither error bits nor marks. -/
theorem before (same : SameBlock s t) (one : AtMostOneError t u) : AtMostOneError s u := by
  rw [SameBlock] at same
  rw [same] at one
  exact ⟨one.marks, one.err⟩

theorem after (one : AtMostOneError s t) (same : SameBlock t u) : AtMostOneError s u := by
  rw [SameBlock] at same
  rw [same]
  exact ⟨one.marks, one.err⟩

end AtMostOneError

theorem Act.atMostOneError {s t : State} (act : Act s t) : AtMostOneError s t := by
  cases act
  case error k => exact .of_raised k rfl rfl
  case noByte => exact .of_raised .rxr rfl rfl
  case clear v => exact .clearErrors v s
  case notLegal isRead => exact .ignoreAccess isRead s
  case block b _ => exact .stepEffect b s
  case accept =>
    obtain ⟨err, marks⟩ := assertCs_sameErrors s
    exact .of_same ⟨err, marks⟩
  case feed v ready =>
    rw [txdataWrite_of_ready v s ready]
    exact .of_same ⟨rfl, rfl⟩
  case nothing | select | crc | len | take | read | setInit => exact .of_same ⟨rfl, rfl⟩

theorem Acts.atMostOneError {s t : State} (acts : Acts s t) : AtMostOneError s t := by
  obtain ⟨u, v, before, act, after⟩ := acts
  exact (act.atMostOneError.before before).after after

/-- Settles O14: a step is a reset, which raises nothing, or one act of the machine. -/
theorem atMostOneErrorPerStep : Obligations.AtMostOneErrorPerStep := by
  intro s t next
  have one : AtMostOneError s t := by
    obtain ⟨rest, -, rfl⟩ | acts := step_acts s t next
    · have turnUsed : SameBlock s { s with turns := rest } := rfl
      exact .before turnUsed (.platformReset _)
    · exact acts.atMostOneError
  exact ⟨one.marks, one.err⟩

end Sys2Proof.Machine
end

section
/-! PROOF. What the requester sees immediately after reset (R252), and obligation O58. -/

namespace Sys2Proof.Machine

/-- R115. -/
theorem enabled_shiftStart_iff (s : State) :
    enabled .shiftStart s = true ↔
      s.sel.shBusy = false ∧ (s.sel.txf ≠ [] ∨ 0 < s.sel.dummyPending) ∧ s.rxRoom = true := by
  simp [enabled, and_assoc]

/-- Outside a segment the sequencer waits for one, and a quiet core gives the shifter nothing to start or to end. -/
theorem enabledSteps_eq_nil_of_idle_of_quiet {s : State} (idle : s.phase = .idle) (quiet : s.sel.Quiet) :
    enabledSteps s = [] := by
  obtain ⟨noTx, -, noDummy, shifterFree⟩ := quiet
  have notRunning : s.phase ≠ .run := by simp [idle]
  have notTail : s.phase ≠ .tail := by simp [idle]
  refine List.filter_eq_nil_iff.mpr fun b _ on => ?_
  cases b
  case dummyBurst => exact notRunning ((enabled_dummyBurst_iff s).mp on).1
  case discard => exact notRunning ((enabled_discard_iff s).mp on).1
  case endRun => exact notRunning ((enabled_endRun_iff s).mp on).1
  case leaveTail => exact notTail ((enabled_leaveTail_iff s).mp on).1
  case shiftStart =>
    obtain ⟨-, waiting, -⟩ := (enabled_shiftStart_iff s).mp on
    simp [noTx, noDummy] at waiting
  case shiftEnd =>
    have shifting : s.sel.shBusy = true := on
    simp [shifterFree] at shifting

section
variable (p : Config.Params) (a b : Bool)

theorem State.resetWith_sel_quiet : (State.resetWith p a b).sel.Quiet := ⟨rfl, rfl, rfl, rfl⟩

theorem State.resetWith_txrdy : (State.resetWith p a b).txrdy = false :=
  (State.txrdy_eq_false_iff _).mpr (.inl Phase.noConfusion)

theorem State.resetWith_rxavl : (State.resetWith p a b).rxavl = false :=
  (State.rxavl_eq_false_iff _).mpr (.inl Phase.noConfusion)

/-- After reset STATUS shows the input INIT_DONE[0] and nothing else. -/
theorem State.resetWith_statusWord :
    (State.resetWith p a b).statusWord = if a then 0x00000020#32 else 0x00000000#32 := by
  have init : (State.resetWith p a b).initBit = a := rfl
  rw [State.statusWord, State.resetWith_txrdy, State.resetWith_rxavl, init]
  change 0#18 ++ 0#6 ++ 0#2 ++ BitVec.ofBool a ++ 0#1 ++ 0#1 ++ 0#1 ++ 0#1 ++ 0#1 = _
  cases a
  case false => decide
  case true => decide

/-- After reset SEL names core 0 and its line 0. -/
theorem State.resetWith_selWord : (State.resetWith p a b).selWord = 0x00000100#32 := by
  change 0#16 ++ 0x01#8 ++ 0#7 ++ 0#1 = 0x00000100#32
  decide

end

/-- Settles O58: the words are those of the reset state; RXDATA is read with RXAVL = 0, and the block is idle. -/
theorem readsAfterReset : Obligations.ReadsAfterReset := by
  intro p a b
  refine ⟨State.resetWith_statusWord p a b, State.resetWith_selWord p a b, rfl, rfl, ?_, ?_⟩
  · have onlyRxr : (State.resetWith p a b).err ||| ErrKind.rxr.bit = 0b001000#6 := BitVec.zero_or
    refine congrArg Host.Outcome.next ((rxdataRead_of_not_available _ (State.resetWith_rxavl p a b)).trans ?_)
    rw [raiseError, onlyRxr]
    rfl
  · exact enabledSteps_eq_nil_of_idle_of_quiet rfl (State.resetWith_sel_quiet p a b)

end Sys2Proof.Machine
end

section
/-! PROOF. Every well-formed instruction round-trips through the encoder and the decoder (R81, R89, R91): obligation
O1. -/

namespace Sys2Proof.Laws

/-- The lemma of each instruction, as one statement about all of them. -/
theorem roundTrip (i : Instr) : RoundTrip.Statement i := by
  cases i
  case xfer => exact RoundTrip.xfer _ _ _ _
  case select => exact RoundTrip.select _ _
  case crcinit => exact RoundTrip.crcinit
  case crcfeed => exact RoundTrip.crcfeed _
  case reservedOp0 => exact RoundTrip.reservedOp0 _
  case reservedOp5 => exact RoundTrip.reservedOp5 _
  case reservedOp6 => exact RoundTrip.reservedOp6 _
  case reservedOp7 => exact RoundTrip.reservedOp7 _
  case reservedOp8 => exact RoundTrip.reservedOp8 _
  case reservedOp9 => exact RoundTrip.reservedOp9 _
  case reservedOpA => exact RoundTrip.reservedOpA _
  case reservedOpB => exact RoundTrip.reservedOpB _
  case reservedOpC => exact RoundTrip.reservedOpC _
  case reservedOpD => exact RoundTrip.reservedOpD _
  case reservedOpE => exact RoundTrip.reservedOpE _
  case reservedOpF => exact RoundTrip.reservedOpF _
  case cmdW => exact RoundTrip.cmdW _
  case lenW => exact RoundTrip.lenW _
  case lenR => exact RoundTrip.lenR
  case statusR => exact RoundTrip.statusR
  case statusW => exact RoundTrip.statusW _
  case txdataW => exact RoundTrip.txdataW _
  case rxdataR => exact RoundTrip.rxdataR
  case selR => exact RoundTrip.selR
  case crcR => exact RoundTrip.crcR
  case ignored => exact RoundTrip.ignored _
  case read => exact RoundTrip.read _ _
  case read4 => exact RoundTrip.read4 _ _
  case pp => exact RoundTrip.pp _ _
  case pp4 => exact RoundTrip.pp4 _ _
  case se => exact RoundTrip.se _
  case se4 => exact RoundTrip.se4 _
  case wren => exact RoundTrip.wren
  case wrdi => exact RoundTrip.wrdi
  case rdsr1 => exact RoundTrip.rdsr1
  case rdid => exact RoundTrip.rdid _

/-- Settles O1, instruction by instruction. -/
theorem decodeInvertsEncode : Obligations.DecodeInvertsEncode := fun dummy i wf => roundTrip i dummy wf

end Sys2Proof.Laws
end

section
/-! PROOF. Every step keeps the block's invariant, the record of the running segment and the discipline of the bus
(R38, R48, R71, R72, R109, R118, R120, R121, R124, R141, R164, R251): obligations O30, O31, O32 and O29. -/

namespace Sys2Proof.Machine

/-- A property that the acts and a reset keep, and that the requester and the schedule do not touch, is kept by every
step. -/
theorem step_keeps {P : State → Prop} (same : ∀ {s t}, SameBlock s t → P s → P t)
    (act : ∀ {s t}, Act s t → P s → P t) (reset : ∀ {s}, P s → P (platformReset s)) {s t : State}
    (next : step s = .next t) (holds : P s) : P t := by
  obtain ⟨rest, -, rfl⟩ | ⟨u, v, before, between, after⟩ := step_acts s t next
  · have turnUsed : SameBlock s { s with turns := rest } := rfl
    exact reset (same turnUsed holds)
  · exact same after (act between (same before holds))

section
variable {s t : State}

/-! ### The block's invariant -/

theorem Inv.of_sameBlock (inv : Inv s) (same : SameBlock s t) : Inv t := by
  rw [same]
  exact inv.of_eq rfl rfl rfl rfl rfl rfl rfl rfl rfl rfl

theorem Act.inv (act : Act s t) (inv : Inv s) : Inv t := by
  cases act
  case nothing => exact inv
  case error k => exact inv.raiseError k
  case accept idle _ => exact inv.acceptSegment idle _ _ _ _
  case select c m idle released legal =>
    have selected := inv.selectBody idle c m legal
    rwa [selectBody, if_neg (by simp [released])] at selected
  case clear v => exact inv.clearErrors v
  case feed v _ => exact inv.txdataWrite v
  case take b rest oldest avl => exact (inv.takeByte b rest oldest (s.rxavl_iff.mp avl).1).returnRead _
  case noByte => exact (inv.raiseError .rxr).returnRead _
  case read v => exact inv.returnRead v
  case block b on => exact blockStep_of_enabled on ▸ inv.blockStep b
  case notLegal isRead => cases isRead <;> exact inv.of_eq rfl rfl rfl rfl rfl rfl rfl rfl rfl rfl
  case crc | len | setInit => exact inv.of_eq rfl rfl rfl rfl rfl rfl rfl rfl rfl rfl

theorem Inv.step (inv : Inv s) (next : step s = .next t) : Inv t :=
  step_keeps (fun same inv => inv.of_sameBlock same) Act.inv Inv.platformReset next inv

/-! ### The record of the running segment -/

theorem SegInv.of_sameBlock (record : SegInv s) (same : SameBlock s t) : SegInv t := by
  rw [same]
  exact record.of_eq rfl rfl rfl rfl rfl rfl rfl rfl rfl rfl rfl fun _ => rfl

theorem SegInv.returnRead (record : SegInv s) (v : Word) : SegInv (returnRead v s) :=
  record.of_eq rfl rfl rfl rfl rfl rfl rfl rfl rfl rfl rfl fun _ => rfl

theorem Act.segInv (act : Act s t) (inv : Inv s) (record : SegInv s) : SegInv t := by
  cases act
  case accept idle _ => exact .acceptSegment inv idle _ _ _ _
  case select idle _ _ => exact .of_idle idle
  case crc idle => exact .of_idle idle
  case feed v _ => exact record.txdataWrite v
  case take b rest oldest avl => exact (record.takeByte b rest oldest (s.rxavl_iff.mp avl).1).returnRead _
  case read v => exact record.returnRead v
  case block b on => exact blockStep_of_enabled on ▸ record.blockStep inv b
  case notLegal isRead =>
    cases isRead <;> exact record.of_eq rfl rfl rfl rfl rfl rfl rfl rfl rfl rfl rfl fun _ => rfl
  case nothing | error | len | clear | noByte | setInit =>
    exact record.of_eq rfl rfl rfl rfl rfl rfl rfl rfl rfl rfl rfl fun _ => rfl

/-! ### The discipline of the bus -/

theorem busState_append (trace es : List BusEvent) :
    busState (trace ++ es) = es.foldl busStep (busState trace) := List.foldl_append

theorem BusInv.of_eq (bus : BusInv s) (trace : t.trace = s.trace) (ss : t.ss = s.ss) (ctrlSel : t.ctrlSel = s.ctrlSel)
    (mask : t.ssmask = s.ssmask) : BusInv t := by
  rw [BusInv, trace, ss, ctrlSel, State.line, mask]
  exact bus

theorem BusInv.of_sameBlock (bus : BusInv s) (same : SameBlock s t) : BusInv t := by
  rw [same]
  exact bus.of_eq rfl rfl rfl rfl

theorem BusInv.asserted (bus : BusInv s) (ss : s.ss = true) : busState s.trace = some (some (s.ctrlSel, s.line)) := by
  rw [bus, if_pos ss]

theorem BusInv.released (bus : BusInv s) (ss : s.ss = false) : busState s.trace = some none := by
  rw [bus, if_neg (by simp [ss])]

/-- A line goes low only where none was (R103). -/
theorem BusInv.assertCs (bus : BusInv s) : BusInv (assertCs s) := by
  by_cases ss : s.ss = true
  · rwa [Machine.assertCs, if_pos ss]
  · rw [Machine.assertCs, if_neg ss]
    change busState (s.trace ++ [.csLow s.ctrlSel s.line]) = some (some (s.ctrlSel, s.line))
    rw [busState_append, bus.released (by simpa using ss)]
    rfl

/-- The line that was low goes high (R113). -/
theorem BusInv.csHigh (bus : BusInv s) (ss : s.ss = true) :
    busState (s.trace ++ [.csHigh s.ctrlSel s.line]) = some none := by
  rw [busState_append, bus.asserted ss]
  exact if_pos rfl

/-- Bytes are exchanged on the line that is low, and stay on it (R72). -/
theorem BusInv.byte (bus : BusInv s) (ss : s.ss = true) (mosi miso : Byte) :
    busState (s.trace ++ [.byte s.ctrlSel s.line mosi miso]) = some (some (s.ctrlSel, s.line)) := by
  rw [busState_append, bus.asserted ss]
  exact if_pos rfl

/-- A shifter that is busy has a segment running, and so a line low (R103, R121). -/
theorem Inv.asserted_of_shBusy (inv : Inv s) (busy : s.sel.shBusy = true) : s.ss = true :=
  inv.asserted (inv.core.not_idle fun ⟨_, _, _, free⟩ => by simp [busy] at free)

theorem BusInv.blockStep (bus : BusInv s) (inv : Inv s) (b : BlockStep) : BusInv (blockStep b s) := by
  by_cases on : enabled b s = true
  case neg => rwa [blockStep_of_not_enabled on]
  rw [blockStep_of_enabled on]
  cases b
  case dummyBurst | endRun => exact bus.of_eq rfl rfl rfl rfl
  case discard =>
    obtain ⟨-, -, nonempty⟩ := (enabled_discard_iff s).mp on
    obtain ⟨b, rest, oldest⟩ := List.exists_cons_of_ne_nil nonempty
    rw [stepEffect, discardByte_of_cons oldest]
    exact bus.of_eq rfl rfl rfl rfl
  case leaveTail =>
    have ss : s.ss = true := inv.asserted (by simp [((enabled_leaveTail_iff s).mp on).1])
    rw [stepEffect, leaveTail]
    split
    · exact bus.csHigh ss
    · exact bus.of_eq rfl rfl rfl rfl
  case shiftStart =>
    obtain ⟨k, effect, -, -⟩ := startByte_eq_setSel s
    rw [stepEffect, effect]
    exact bus.of_eq rfl rfl rfl rfl
  case shiftEnd =>
    have ss : s.ss = true := inv.asserted_of_shBusy on
    change busState (s.trace ++ [.byte ..]) = some (if s.ss then some (s.ctrlSel, s.line) else none)
    rw [bus.byte ss, if_pos ss]

theorem BusInv.platformReset (bus : BusInv s) : BusInv (platformReset s) := by
  change busState (if s.ss then emit _ s else s).trace = some none
  split
  · exact bus.csHigh ‹_›
  · exact bus.released (by simp_all)

theorem Act.busInv (act : Act s t) (inv : Inv s) (bus : BusInv s) : BusInv t := by
  cases act
  case accept => exact bus.assertCs.of_eq rfl rfl rfl rfl
  case select released _ => exact (bus.released released).trans (by simp [released])
  case feed v ready =>
    rw [txdataWrite_of_ready v s ready]
    exact bus.of_eq rfl rfl rfl rfl
  case block b on => exact blockStep_of_enabled on ▸ bus.blockStep inv b
  case notLegal isRead => cases isRead <;> exact bus.of_eq rfl rfl rfl rfl
  case nothing | error | crc | len | clear | take | noByte | read | setInit => exact bus.of_eq rfl rfl rfl rfl

end

/-- Settles O30, by the acts of a step. -/
theorem stepKeepsBlockInvariant : Obligations.StepKeepsBlockInvariant := fun _ _ inv next => inv.step next

/-- Settles O31: the record is true at acceptance, and each step adds to it what it does. -/
theorem stepKeepsSegmentRecord : Obligations.StepKeepsSegmentRecord := fun _ _ inv record next =>
  (step_keeps (P := fun s => Inv s ∧ SegInv s)
    (fun same ⟨inv, record⟩ => ⟨inv.of_sameBlock same, record.of_sameBlock same⟩)
    (fun act ⟨inv, record⟩ => ⟨act.inv inv, act.segInv inv record⟩)
    (fun ⟨inv, _⟩ => ⟨inv.platformReset, .of_idle rfl⟩) next ⟨inv, record⟩).2

/-- Settles O32: a line goes low where none is, exchanges happen on it alone, and it goes high again. -/
theorem stepKeepsBusDiscipline : Obligations.StepKeepsBusDiscipline := fun _ _ inv bus next =>
  (step_keeps (P := fun s => Inv s ∧ BusInv s)
    (fun same ⟨inv, bus⟩ => ⟨inv.of_sameBlock same, bus.of_sameBlock same⟩)
    (fun act ⟨inv, bus⟩ => ⟨act.inv inv, act.busInv inv bus⟩)
    (fun ⟨inv, bus⟩ => ⟨inv.platformReset, bus.platformReset⟩) next ⟨inv, bus⟩).2

/-- Settles O29: at reset no segment runs and no line is low. -/
theorem invariantsHoldAtReset : Obligations.InvariantsHoldAtReset :=
  ⟨fun _ a b legal stall => ⟨.resetWith legal stall a b, .of_idle rfl, rfl⟩,
    .resetWith ⟨by decide, by decide, by decide, by decide⟩ rfl _ _⟩

end Sys2Proof.Machine
end

section
/-! PROOF. The decoder's domain (R60, R62, R64, R81, R94), and that what decodes is the encoding of what it decodes to
(R81, R89): obligations O2, O3, O4 and O5. -/

namespace Sys2Proof.Machine
open Sys2Proof.Laws

/-! ### Command words -/

/-- The word that `reservedWord` makes of a word's own OP and its other bits (R82). -/
theorem reservedWord_of_op {w : Word} {op : BitVec 4} (isOp : field w 0 4 = op) :
    reservedWord op (field w 4 28) = w := by
  rw [← isOp]
  exact (join_fields w 0 4 28).trans (whole_field w)

theorem xferWord_of_fields {w : Word} (isOp : field w 0 4 = 0x1#4) (high : field w 8 24 = 0#24) :
    xferWord (w.getLsbD 4) (w.getLsbD 5) (w.getLsbD 6) (w.getLsbD 7) = w := by
  have flag (i : Nat) : BitVec.ofBool (w.getLsbD i) = w.extractLsb' i 1 := by
    refine BitVec.eq_of_getLsbD_eq fun j inBit => ?_
    obtain rfl : j = 0 := by omega
    simp
  rw [xferWord, ← high, ← isOp, flag, flag, flag, flag, field, field, join_fields w 7 1 24, join_fields w 6 1 25,
    join_fields w 5 1 26, join_fields w 4 1 27, join_fields w 0 4 28, whole_field]

theorem selectWord_of_fields {w : Word} (isOp : field w 0 4 = 0x2#4) (high : field w 16 16 = 0#16)
    (low : field w 5 3 = 0#3) : selectWord (field w 4 1) (field w 8 8) = w := by
  rw [selectWord, ← isOp, ← high, ← low, field, field, field, field, field, join_fields w 8 8 16, join_fields w 5 3 24,
    join_fields w 4 1 27, join_fields w 0 4 28, whole_field]

theorem crcinitWord_of_fields {w : Word} (isOp : field w 0 4 = 0x3#4) (high : field w 4 28 = 0#28) :
    crcinitWord = w := by
  have joined := reservedWord_of_op isOp
  rwa [high] at joined

theorem crcfeedWord_of_fields {w : Word} (isOp : field w 0 4 = 0x4#4) (high : field w 16 16 = 0#16)
    (low : field w 4 4 = 0#4) : crcfeedWord (field w 8 8) = w := by
  rw [crcfeedWord, ← isOp, ← high, ← low, field, field, field, field, join_fields w 8 8 16, join_fields w 4 4 24,
    join_fields w 0 4 28, whole_field]

theorem op_eq_of_toNat {w : Word} {n : Nat} (op : (field w 0 4).toNat = n) : field w 0 4 = BitVec.ofNat 4 n := by
  rw [← op, BitVec.ofNat_toNat, BitVec.setWidth_eq]

/-- R81, R82: no bit of a CMD word that decodes is dropped. -/
theorem encode_of_decodeCommand (dummy : Byte) {w : Word} {i : Instr} (decoded : decodeCommand w = .ok i) :
    encode dummy i = .command w := by
  revert decoded
  fun_cases decodeCommand w
  all_goals
    intro decoded
    cases decoded
  all_goals refine congrArg Request.command ?_
  case case1.refl op high => exact xferWord_of_fields (op_eq_of_toNat op) high
  case case3.refl op zero => exact selectWord_of_fields (op_eq_of_toNat op) zero.1 zero.2
  case case5.refl op high => exact crcinitWord_of_fields (op_eq_of_toNat op) high
  case case7.refl op zero => exact crcfeedWord_of_fields (op_eq_of_toNat op) zero.1 zero.2
  case case20.refl =>
    have notLower : ∀ n < 0xF, (field w 0 4).toNat ≠ n := fun n lower => by interval_cases n <;> assumption
    have inOp : (field w 0 4).toNat < 16 := (field w 0 4).isLt
    have isLast : ¬ (field w 0 4).toNat < 0xF := fun lower => notLower _ lower rfl
    exact reservedWord_of_op (op_eq_of_toNat (n := 0xF) (by omega))
  all_goals exact reservedWord_of_op (op_eq_of_toNat ‹_›)

/-! ### Register accesses -/

/-- R60, R62, R89: the writes that decode, with the access each is. -/
theorem decodeWrite_eq_ok_iff {off size : Nat} {v : Word} {i : Instr} :
    decodeWrite off size v = .ok i ↔
      size = 4 ∧ ((off = 0x00 ∧ i = .cmdW v) ∨ (off = 0x04 ∧ i = .lenW v) ∨ (off = 0x08 ∧ i = .statusW v) ∨
        (off = 0x0C ∧ i = .txdataW v) ∨ (off = 0x10 ∧ i = .ignored (.writeRxdata v)) ∨
        (off = 0x14 ∧ i = .ignored (.writeSel v)) ∨ (off = 0x18 ∧ i = .ignored (.writeCrc v)) ∨
        (off = 0x1C ∧ i = .ignored (.writeReserved v))) := by
  constructor
  · fun_cases decodeWrite off size v
    all_goals intro decoded; cases decoded
    all_goals simp_all
  · rintro ⟨rfl, ⟨rfl, rfl⟩ | ⟨rfl, rfl⟩ | ⟨rfl, rfl⟩ | ⟨rfl, rfl⟩ | ⟨rfl, rfl⟩ | ⟨rfl, rfl⟩ | ⟨rfl, rfl⟩ | ⟨rfl, rfl⟩⟩
    all_goals rfl

/-- R60, R62, R89: the reads that decode, with the access each is. -/
theorem decodeRead_eq_ok_iff {off size : Nat} {i : Instr} :
    decodeRead off size = .ok i ↔
      size = 4 ∧ ((off = 0x00 ∧ i = .ignored .readCmd) ∨ (off = 0x04 ∧ i = .lenR) ∨ (off = 0x08 ∧ i = .statusR) ∨
        (off = 0x0C ∧ i = .ignored .readTxdata) ∨ (off = 0x10 ∧ i = .rxdataR) ∨ (off = 0x14 ∧ i = .selR) ∨
        (off = 0x18 ∧ i = .crcR) ∨ (off = 0x1C ∧ i = .ignored .readReserved)) := by
  constructor
  · fun_cases decodeRead off size
    all_goals intro decoded; cases decoded
    all_goals simp_all
  · rintro ⟨rfl, ⟨rfl, rfl⟩ | ⟨rfl, rfl⟩ | ⟨rfl, rfl⟩ | ⟨rfl, rfl⟩ | ⟨rfl, rfl⟩ | ⟨rfl, rfl⟩ | ⟨rfl, rfl⟩ | ⟨rfl, rfl⟩⟩
    all_goals rfl

/-- The offsets of the eight registers are the multiples of 4 in the window (R60). -/
theorem registerOffset_iff (off : Nat) :
    (off = 0x00 ∨ off = 0x04 ∨ off = 0x08 ∨ off = 0x0C ∨ off = 0x10 ∨ off = 0x14 ∨ off = 0x18 ∨ off = 0x1C) ↔
      off < 0x20 ∧ off % 4 = 0 := by omega

/-- Settles O2: a word is joined again from its fields, an access is found among the eight of its direction. -/
theorem encodeInvertsDecode : Obligations.EncodeInvertsDecode := by
  refine ⟨fun dummy w i decoded => encode_of_decodeCommand dummy decoded, fun dummy off size v i decoded => ?_,
    fun dummy off size i decoded => ?_⟩
  · obtain ⟨rfl, access⟩ := decodeWrite_eq_ok_iff.mp decoded
    obtain ⟨rfl, rfl⟩ | ⟨rfl, rfl⟩ | ⟨rfl, rfl⟩ | ⟨rfl, rfl⟩ | ⟨rfl, rfl⟩ | ⟨rfl, rfl⟩ | ⟨rfl, rfl⟩ | ⟨rfl, rfl⟩ :=
      access
    all_goals rfl
  · obtain ⟨rfl, access⟩ := decodeRead_eq_ok_iff.mp decoded
    obtain ⟨rfl, rfl⟩ | ⟨rfl, rfl⟩ | ⟨rfl, rfl⟩ | ⟨rfl, rfl⟩ | ⟨rfl, rfl⟩ | ⟨rfl, rfl⟩ | ⟨rfl, rfl⟩ | ⟨rfl, rfl⟩ :=
      access
    all_goals rfl

/-- Settles O3: in each direction every register offset has its access. -/
theorem accessDecodesIffLegal : Obligations.AccessDecodesIffLegal := by
  intro off size v
  rw [← and_assoc, and_comm (b := size = 4), ← registerOffset_iff]
  simp only [decode, decodeWrite_eq_ok_iff, decodeRead_eq_ok_iff, exists_and_left, exists_or, exists_eq, and_true,
    and_self]

/-- Settles O4: at each OP of a command one test of the must-be-zero bits is left, and a reserved OP decodes. -/
theorem commandWordRejectedIffReservedBitSet : Obligations.CommandWordRejectedIffReservedBitSet := by
  refine ⟨fun w => ⟨fun rejected => ?_, decodeCommand_of_reservedBitSet⟩, ssmaskLegal_iff_oneLine,
    fun _ line => idx_shiftLeft line⟩
  have ops : opOf w = 0x1 ∨ opOf w = 0x2 ∨ opOf w = 0x3 ∨ opOf w = 0x4 ∨ (opOf w = 0x0 ∨ 0x5 ≤ opOf w) := by omega
  rw [decode] at rejected
  obtain op | op | op | op | op := ops
  · rw [decodeCommand_of_xferOp op] at rejected
    exact .inl ⟨op, by simpa using rejected⟩
  · rw [decodeCommand_of_selectOp op] at rejected
    exact .inr (.inl ⟨op, not_and_or.mp (by simpa using rejected)⟩)
  · rw [decodeCommand_of_crcinitOp op] at rejected
    exact .inr (.inr (.inl ⟨op, by simpa using rejected⟩))
  · rw [decodeCommand_of_crcfeedOp op] at rejected
    exact .inr (.inr (.inr ⟨op, not_and_or.mp (by simpa using rejected)⟩))
  · obtain ⟨i, decoded, -⟩ := decodeCommand_of_reservedOp op
    simp [decoded] at rejected

/-- Settles O5, word by word. -/
theorem specWordsDecode : Obligations.SpecWordsDecode := by
  unfold Obligations.SpecWordsDecode
  decide

end Sys2Proof.Machine
end

section
/-! PROOF. What a step runs, and what a rejected request does (R7, R60, R62, R64, R87): obligations O7 and O8. -/

namespace Sys2Proof.Machine

/-! ### The step -/

section
variable {s : State} {rest : List Turn} (turns : s.turns = .requester :: rest) (client : s.client = [])
include turns client

/-- With nothing left of a pseudo-instruction, a turn of the requester is its next statement. -/
theorem step_eq_runStmt {st : Stmt} (next : s.prog[s.rpc]? = some st) :
    step s = runStmt st { s with turns := rest, rpc := s.rpc + 1 } := by
  rw [step, turns]
  change requesterTurn { s with turns := rest } = _
  rw [requesterTurn]
  simp only [client, next]

end

theorem runRequest_of_decoded {r : Request} {i : Instr} (decoded : decode r = .ok i) (s : State) :
    runRequest r s = exec i s := by
  rw [runRequest, decoded]

theorem runRequest_of_rejected {r : Request} {e : DecodeError} (rejected : decode r = .error e) (s : State) :
    runRequest r s = runUndecoded r e s := by
  rw [runRequest, rejected]

/-- A table word that decodes is a request that decodes (log 12). -/
theorem decode_tableRequest {nbits w : Nat} {i : Instr} (decoded : decodeTableWord nbits w = some i) :
    decode (tableRequest nbits w) = .ok i := by
  unfold decodeTableWord at decoded
  split at decoded
  case h_1 j isOk => cases decoded; exact isOk
  case h_2 => cases decoded

/-- Addresses of the window are those at an offset below its length (R64). -/
theorem windowOffset_of_inside {p : Config.Params} {a : Nat} (from_base : p.base ≤ a) (below : a < p.base + 0x20) :
    windowOffset p a = some (a - p.base) := if_pos ⟨from_base, below⟩

theorem windowOffset_of_outside {p : Config.Params} {a : Nat} (outside : a < p.base ∨ p.base + 0x20 ≤ a) :
    windowOffset p a = none := by
  refine if_neg fun ⟨from_base, below⟩ => ?_
  change a < p.base + 0x20 at below
  omega

/-- Settles O7: the requester's statement is a request, or an access whose offset in the window is one. -/
theorem stepRunsDecodedInstruction : Obligations.StepRunsDecodedInstruction := by
  refine ⟨fun s rest r i turns client next decoded => ?_, fun s rest a size v i turns client lower upper => ⟨?_, ?_⟩,
    fun s nbits w i decoded => ?_⟩
  · exact (step_eq_runStmt turns client next).trans (runRequest_of_decoded decoded _)
  · intro next decoded
    rw [step_eq_runStmt turns client next, runStmt, windowOffset_of_inside lower upper]
    exact runRequest_of_decoded decoded _
  · intro next decoded
    rw [step_eq_runStmt turns client next, runStmt, windowOffset_of_inside lower upper]
    exact runRequest_of_decoded decoded _
  · exact (step_eq_runStmt (s := s.withFetchWord nbits w) rfl rfl rfl).trans
      (runRequest_of_decoded (decode_tableRequest decoded) _)

/-! ### Rejected requests -/

/-- A misaligned or narrow access in the window is rejected, and not as one outside it (R62). -/
theorem decodeWrite_notLegal {off size : Nat} (v : Word) (inside : off < 0x20) (bad : off % 4 ≠ 0 ∨ size ≠ 4) :
    ∃ e, decode (.write off size v) = .error e ∧ e ≠ .outsideWindow := by
  rw [decode]
  cases decoded : decodeWrite off size v
  case ok i =>
    obtain ⟨_, aligned, isWord⟩ := (accessDecodesIffLegal off size v).1.mp ⟨i, decoded⟩
    omega
  case error e =>
    refine ⟨e, rfl, ?_⟩
    rintro rfl
    revert decoded
    fun_cases decodeWrite off size v
    case case1 outside => omega
    all_goals exact fun h => by cases h

theorem decodeRead_notLegal {off size : Nat} (inside : off < 0x20) (bad : off % 4 ≠ 0 ∨ size ≠ 4) :
    ∃ e, decode (.read off size) = .error e ∧ e ≠ .outsideWindow := by
  rw [decode]
  cases decoded : decodeRead off size
  case ok i =>
    obtain ⟨_, aligned, isWord⟩ := (accessDecodesIffLegal off size 0#32).2.mp ⟨i, decoded⟩
    omega
  case error e =>
    refine ⟨e, rfl, ?_⟩
    rintro rfl
    revert decoded
    fun_cases decodeRead off size
    case case1 outside => omega
    all_goals exact fun h => by cases h

section
variable {off size : Nat}

theorem runRequest_write_notLegal (v : Word) (s : State) (inside : off < 0x20) (bad : off % 4 ≠ 0 ∨ size ≠ 4) :
    runRequest (.write off size v) s = notLegalAccess false s := by
  obtain ⟨e, rejected, notOutside⟩ := decodeWrite_notLegal v inside bad
  rw [runRequest_of_rejected rejected, runUndecoded, if_neg notOutside]

theorem runRequest_read_notLegal (s : State) (inside : off < 0x20) (bad : off % 4 ≠ 0 ∨ size ≠ 4) :
    runRequest (.read off size) s = notLegalAccess true s := by
  obtain ⟨e, rejected, notOutside⟩ := decodeRead_notLegal inside bad
  rw [runRequest_of_rejected rejected, runUndecoded, if_neg notOutside]

theorem runRequest_write_outside (v : Word) (s : State) (outside : 0x20 ≤ off) :
    runRequest (.write off size v) s = .fault .outsideWindow := by
  have rejected : decode (.write off size v) = .error .outsideWindow := if_pos outside
  rw [runRequest_of_rejected rejected, runUndecoded, if_pos rfl]

theorem runRequest_read_outside (s : State) (outside : 0x20 ≤ off) :
    runRequest (.read off size) s = .fault .outsideWindow := by
  have rejected : decode (.read off size) = .error .outsideWindow := if_pos outside
  rw [runRequest_of_rejected rejected, runUndecoded, if_pos rfl]

theorem notLegalAccess_of_refuse (isRead : Bool) {s : State} (refuse : s.cfg.badAccess = .refuse) :
    notLegalAccess isRead s = .refused .badAccess := by
  rw [notLegalAccess, refuse]

theorem notLegalAccess_of_ignore (isRead : Bool) {s : State} (ignore : s.cfg.badAccess = .ignore) :
    notLegalAccess isRead s = .next (ignoreAccess isRead s) := by
  rw [notLegalAccess, ignore]

/-- A CMD word with a must-be-zero bit set reaches the command port as an illegal command (R87, R222). -/
theorem runRequest_command_reservedBitSet {w : Word} (set : ReservedBitSet w) (s : State) :
    runRequest (.command w) s = .next (raiseError (if s.phase = .idle then .cmd else .busy) s) := by
  have rejected : decode (.command w) = .error .illegalCommand := decodeCommand_of_reservedBitSet set
  have illegal : commandWrite w s = issueCommand false id s := by
    rw [commandWrite, decodeCommand_of_reservedBitSet set]
  rw [runRequest_of_rejected rejected, runUndecoded, illegal]
  refine congrArg Host.Outcome.next ?_
  by_cases idle : s.phase = .idle
  · rw [if_pos idle]
    exact issueCommand_of_idle idle false id
  · rw [if_neg idle]
    exact issueCommand_of_busy idle false id

end

/-- Settles O8, by the form of the request and the reason it is rejected. -/
theorem rejectedRequestEffect : Obligations.RejectedRequestEffect := by
  intro s
  refine ⟨fun w set => runRequest_command_reservedBitSet set s, fun off size v refuse inside bad => ?_,
    fun off size v ignore inside bad => ?_, fun off size v outside => ?_, fun a size v outside => ?_,
    fun off mask val outside => ?_, fun off mask val refuse inside bad => ?_, fun mosi e rejected => ?_⟩
  · rw [runRequest_write_notLegal v s inside bad, runRequest_read_notLegal s inside bad]
    exact ⟨notLegalAccess_of_refuse false refuse, notLegalAccess_of_refuse true refuse⟩
  · rw [runRequest_write_notLegal v s inside bad, runRequest_read_notLegal s inside bad]
    exact ⟨notLegalAccess_of_ignore false ignore, notLegalAccess_of_ignore true ignore⟩
  · exact ⟨runRequest_write_outside v s outside, runRequest_read_outside s outside⟩
  · simp only [runStmt, windowOffset_of_outside outside, and_self]
  · rw [clientStep, runRequest_read_outside s outside, andThen]
  · rw [clientStep, runRequest_read_notLegal s inside (.inl bad), notLegalAccess_of_refuse true refuse, andThen]
  · exact runRequest_of_rejected rejected s

end Sys2Proof.Machine
end

section
/-! PROOF. The error bits (R30, R82, R87, R220, R221): obligations O10, O13 and O15. -/

namespace Sys2Proof.Machine

/-! ### Raising an error -/

/-- The bit of STATUS an error kind sets (R221). -/
def ErrKind.place : ErrKind → Nat
  | .cmd => 8
  | .busy => 9
  | .txw => 10
  | .rxr => 11
  | .sel => 12
  | .noinit => 13

theorem ErrKind.bit_getLsbD (k : ErrKind) {j : Nat} (inErr : j < 6) : k.bit.getLsbD j = decide (8 + j = k.place) := by
  revert j
  cases k <;> decide

/-- Settles O10, bit by bit of STATUS[13:8]. -/
theorem errorSetsOnlyItsBit : Obligations.ErrorSetsOnlyItsBit := by
  refine fun k s => ⟨rfl, fun j inErr => ?_⟩
  have raised : (raiseError k s).statusWord.getLsbD (8 + j) =
      (s.statusWord.getLsbD (8 + j) || decide (8 + j = k.place)) := by
    rw [State.statusWord_getLsbD_err, State.statusWord_getLsbD_err, raiseError_err, BitVec.getLsbD_or,
      k.bit_getLsbD inErr]
  exact raised

/-- Settles O13: each reserved OP is an illegal command, so the phase alone names its error. -/
theorem reservedOpRaisesErrCmd : Obligations.ReservedOpRaisesErrCmd := by
  intro rest s i reserved
  have illegal : exec i s = .next (issueCommand false id s) := by
    simp only [List.mem_cons, List.not_mem_nil, or_false] at reserved
    rcases reserved with rfl | rfl | rfl | rfl | rfl | rfl | rfl | rfl | rfl | rfl | rfl | rfl
    all_goals rfl
  rw [illegal]
  exact ⟨fun idle => congrArg Host.Outcome.next (issueCommand_of_idle idle false id),
    fun busy => congrArg Host.Outcome.next (issueCommand_of_busy busy false id)⟩

/-! ### Keeping the error bits -/

/-- Every error bit that is 1 in `s` is 1 in `t`. -/
def KeepsErrors (s t : State) : Prop := ∀ j, s.err.getLsbD j = true → t.err.getLsbD j = true

namespace KeepsErrors
variable {s t : State}

theorem of_err_eq (err : t.err = s.err) : KeepsErrors s t := fun _ set => err ▸ set

theorem raiseError (k : ErrKind) (s : State) : KeepsErrors s (raiseError k s) := fun j set => by
  rw [raiseError_err, BitVec.getLsbD_or, set, Bool.true_or]

theorem issueCommand {body : State → State} (keeps : KeepsErrors s (body s)) (legal : Bool) :
    KeepsErrors s (issueCommand legal body s) := by
  unfold Machine.issueCommand
  split
  · exact .raiseError _ s
  · split
    · exact keeps
    · exact .raiseError _ s

theorem xferBody (txp rxp last crcen : Bool) (s : State) : KeepsErrors s (xferBody txp rxp last crcen s) := by
  unfold Machine.xferBody
  split
  · exact .of_err_eq (assertCs_sameErrors s).err
  · exact .raiseError _ s

theorem selectBody (ctrl : BitVec 1) (m : Byte) (s : State) : KeepsErrors s (selectBody ctrl m s) := by
  unfold Machine.selectBody
  split
  · exact .raiseError _ s
  · exact .of_err_eq rfl

theorem commandWrite (w : Word) (s : State) : KeepsErrors s (commandWrite w s) := by
  unfold Machine.commandWrite
  split
  · exact .issueCommand (.xferBody _ _ _ _ s) _
  · exact .issueCommand (.selectBody _ _ s) _
  all_goals exact .issueCommand (.of_err_eq rfl) _

theorem txdataWrite (v : Word) (s : State) : KeepsErrors s (txdataWrite v s) := by
  unfold Machine.txdataWrite
  split
  · exact .of_err_eq rfl
  · exact .raiseError _ s

theorem rxdataRead (s : State) : KeepsErrors s (rxdataRead s) := by
  unfold Machine.rxdataRead
  split
  · split
    · exact .of_err_eq rfl
    · exact .raiseError _ s
  · exact .raiseError _ s

/-- Of the instructions STATUS.W alone clears an error bit. -/
theorem of_exec {i : Instr} (next : exec i s = .next t) (other : ∀ v, i ≠ .statusW v) : KeepsErrors s t := by
  cases i
  case statusW v => exact absurd rfl (other v)
  case xfer => cases next; exact .issueCommand (.xferBody _ _ _ _ s) _
  case select => cases next; exact .issueCommand (.selectBody _ _ s) _
  case cmdW v => cases next; exact .commandWrite v s
  case txdataW v => cases next; exact .txdataWrite v s
  case rxdataR => cases next; exact .rxdataRead s
  case ignored a => cases a <;> cases next <;> exact .of_err_eq rfl
  case lenW | lenR | statusR | selR | crcR | read | read4 | pp | pp4 | se | se4 | wren | wrdi | rdsr1 | rdid =>
    cases next
    exact .of_err_eq rfl
  all_goals
    cases next
    exact .issueCommand (.of_err_eq rfl) _

theorem of_notLegalAccess {isRead : Bool} (next : notLegalAccess isRead s = .next t) : KeepsErrors s t := by
  unfold notLegalAccess at next
  split at next
  · cases next
  · cases next
    cases isRead <;> exact .of_err_eq rfl

/-- A request that is no STATUS.W keeps the error bits, whether it decodes or not. -/
theorem of_runRequest {r : Request} (next : runRequest r s = .next t) (other : ∀ v, decode r ≠ .ok (.statusW v)) :
    KeepsErrors s t := by
  cases decoded : decode r
  case ok i =>
    rw [runRequest_of_decoded decoded] at next
    exact .of_exec next fun v isStatusW => other v (by rw [decoded, isStatusW])
  case error e =>
    rw [runRequest_of_rejected decoded] at next
    cases r
    case command w => cases next; exact .commandWrite w s
    case frame mosi => cases next; exact .of_err_eq rfl
    case write off size v =>
      rw [runUndecoded] at next
      split at next
      · cases next
      · exact .of_notLegalAccess next
    case read off size =>
      rw [runUndecoded] at next
      split at next
      · cases next
      · exact .of_notLegalAccess next

/-- No read is a STATUS.W. -/
theorem of_runRequest_read {off size : Nat} (next : runRequest (.read off size) s = .next t) : KeepsErrors s t := by
  refine .of_runRequest next fun v isStatusW => ?_
  obtain ⟨-, -, encoded⟩ := encodeInvertsDecode
  exact Request.noConfusion (encoded 0#8 off size _ isStatusW)

/-- The requester's own doing around an access touches no error bit. -/
theorem of_andThen {o : Host.Outcome State Fault Refusal} {f : State → State} (next : andThen o f = .next t)
    (access : ∀ u, o = .next u → KeepsErrors s u) (own : ∀ u, (f u).err = u.err) : KeepsErrors s t := by
  obtain ⟨u, went, rfl⟩ := andThen_next next
  exact fun j set => own u ▸ access u went j set

/-- Of the micro-statements a write to STATUS alone clears an error bit. -/
theorem of_clientStep {op : ClientOp} (next : clientStep op s = .next t) (other : ∀ v, op ≠ .write 0x08 v) :
    KeepsErrors s t := by
  cases op
  case write off v =>
    refine .of_runRequest next fun u isStatusW => ?_
    obtain ⟨-, encoded, -⟩ := encodeInvertsDecode
    have same := encoded 0#8 off 4 v _ isStatusW
    rw [encode] at same
    cases same
    exact other v rfl
  case read off => exact .of_runRequest_read next
  case poll off mask val =>
    rw [clientStep] at next
    refine of_andThen next (fun _ => .of_runRequest_read) fun u => ?_
    split <;> rfl
  case segLoop f tx =>
    rw [clientStep] at next
    exact of_andThen next (fun _ => .of_runRequest_read) fun _ => rfl
  case segTake =>
    rw [clientStep] at next
    exact of_andThen next (fun _ => .of_runRequest_read) fun _ => rfl
  case waitTest =>
    cases next
    refine .of_err_eq ?_
    rw [sameBlock_waitTurn s]
  case seg | waitIdle | crcLoop =>
    cases next
    exact .of_err_eq rfl

end KeepsErrors

/-- R145: what STATUS.W clears was written with 1. -/
theorem getLsbD_of_clearErrors {v : Word} {s : State} {j : Nat} (set : s.err.getLsbD j = true)
    (cleared : (clearErrors v s).err.getLsbD j = false) : v.getLsbD (8 + j) = true := by
  have inErr : j < 6 := BitVec.lt_of_getLsbD set
  rwa [clearErrors_getLsbD_err v s inErr, set, Bool.true_and, Bool.not_eq_false'] at cleared

theorem blockStep_err (b : BlockStep) (s : State) : (blockStep b s).err = s.err := by
  by_cases on : enabled b s = true
  case neg => rw [blockStep_of_not_enabled on]
  rw [blockStep_of_enabled on]
  cases b
  case discard => exact (discardByte_sameErrors s).err
  case leaveTail => exact (leaveTail_sameErrors s).err
  case shiftStart => exact (startByte_sameErrors s).err
  case dummyBurst | endRun | shiftEnd => rfl

/-- Settles O15: where a bit is lost, the instruction or micro-statement is the one that can lose it. -/
theorem errorBitsAreSticky : Obligations.ErrorBitsAreSticky := by
  refine ⟨fun i s t j next set cleared => ?_, blockStep_err, fun op s t j next set cleared => ?_⟩
  · by_cases other : ∀ v, i ≠ .statusW v
    · simp [KeepsErrors.of_exec next other j set] at cleared
    · obtain ⟨v, isStatusW⟩ := not_forall_not.mp other
      subst isStatusW
      cases next
      exact ⟨v, rfl, getLsbD_of_clearErrors set cleared⟩
  · by_cases other : ∀ v, op ≠ .write 0x08 v
    · simp [KeepsErrors.of_clientStep next other j set] at cleared
    · obtain ⟨v, isStatusW⟩ := not_forall_not.mp other
      subst isStatusW
      cases next
      exact ⟨v, rfl, getLsbD_of_clearErrors set cleared⟩

end Sys2Proof.Machine
end

section
/-! PROOF. The shifter's steps and the block's turns (R7, R8, R115, R116, R117): obligations O27, O28 and O9. -/

namespace Sys2Proof.Machine

/-- Room for the byte a start will receive, where it is asked for (R115, R117). -/
theorem State.rxRoom_iff (s : State) :
    s.rxRoom = true ↔ (s.cfg.rxFull = .stall → s.sel.rxf.length < s.cfg.rxd) := by
  rw [State.rxRoom]
  cases s.cfg.rxFull <;> simp

theorem startByte_of_cons {s : State} {b : Byte} {rest : List Byte} (oldest : s.sel.txf = b :: rest) :
    startByte s = s.setSel { s.sel with txf := rest, shMosi := b, shBusy := true } := by
  rw [startByte, oldest]

theorem startByte_of_nil {s : State} (empty : s.sel.txf = []) :
    startByte s =
      s.setSel { s.sel with dummyPending := s.sel.dummyPending - 1, shMosi := s.cfg.dummyByte, shBusy := true } := by
  rw [startByte, empty]

/-- Settles O27: a data byte goes first, and a dummy byte where there is none. -/
theorem shifterStartStep : Obligations.ShifterStartStep := by
  intro s b rest
  refine ⟨?_, fun on oldest => (blockStep_of_enabled on).trans (startByte_of_cons oldest),
    fun on empty => (blockStep_of_enabled on).trans (startByte_of_nil empty)⟩
  rw [enabled_shiftStart_iff, State.rxRoom_iff]
  rfl

theorem full_eq_false_iff (depth : Nat) (q : List Byte) : full depth q = false ↔ q.length < depth := by
  simp [full]

theorem endByte_of_room {s : State} (room : s.sel.rxf.length < s.cfg.rxd) :
    endByte s =
      emit (.byte s.ctrlSel s.line s.sel.shMosi (drawMiso s))
        { s.setSel { s.sel with rxf := s.sel.rxf ++ [drawMiso s], shBusy := false } with miso := s.miso.tail } := by
  rw [endByte, pushRx, (full_eq_false_iff _ _).mpr room]
  rfl

theorem endByte_of_full {s : State} (isFull : s.cfg.rxd ≤ s.sel.rxf.length) :
    endByte s =
      emit (.byte s.ctrlSel s.line s.sel.shMosi (drawMiso s))
        { s.setSel { s.sel with shBusy := false } with miso := s.miso.tail, marks := s.marks ++ [.rxOverflow] } := by
  have isFull : full s.cfg.rxd s.sel.rxf = true := decide_eq_true isFull
  rw [endByte, pushRx, isFull]
  rfl

theorem drawMiso_of_cons {s : State} {x : Byte} {xs : List Byte} (answers : s.miso = x :: xs) : drawMiso s = x := by
  rw [drawMiso, answers, List.headD_cons]

/-- Settles O28, by the room in the RX FIFO. -/
theorem shifterEndStep : Obligations.ShifterEndStep := by
  intro s busy
  have on : enabled .shiftEnd s = true := busy
  exact ⟨drawMiso s, fun _ _ answers => drawMiso_of_cons answers,
    fun room => (blockStep_of_enabled on).trans (endByte_of_room room),
    fun isFull => (blockStep_of_enabled on).trans (endByte_of_full isFull)⟩

/-! ### Turns the schedule does not name (log 2) -/

theorem mem_enabledSteps {b : BlockStep} {s : State} : b ∈ enabledSteps s ↔ enabled b s = true := by
  have all : b ∈ allSteps := by cases b <;> decide
  simp [enabledSteps, all]

/-- No step of the block reads or writes the counter of free choices. -/
theorem blockStep_freeCtr (b : BlockStep) (s : State) (n : Nat) :
    blockStep b { s with freeCtr := n } = { blockStep b s with freeCtr := n } := by
  by_cases on : enabled b s = true
  case neg =>
    rw [blockStep_of_not_enabled on]
    exact blockStep_of_not_enabled on
  have onThere : enabled b { s with freeCtr := n } = true := on
  rw [blockStep_of_enabled on, blockStep_of_enabled onThere]
  cases b
  case discard =>
    obtain ⟨-, -, nonempty⟩ := (enabled_discard_iff s).mp on
    obtain ⟨b, rest, oldest⟩ := List.exists_cons_of_ne_nil nonempty
    have oldestThere : State.sel { s with freeCtr := n } = s.sel := rfl
    rw [stepEffect, stepEffect, discardByte_of_cons oldest, discardByte_of_cons (oldestThere ▸ oldest)]
    rfl
  case leaveTail =>
    by_cases last : s.seg.last = true
    · simp only [stepEffect, leaveTail, last, if_true]; rfl
    · simp only [stepEffect, leaveTail, last]; rfl
  case shiftStart =>
    cases fifo : s.sel.txf
    case nil =>
      rw [stepEffect, stepEffect, startByte_of_nil fifo]
      exact startByte_of_nil (s := { s with freeCtr := n }) fifo
    case cons b rest =>
      rw [stepEffect, stepEffect, startByte_of_cons fifo]
      exact startByte_of_cons (s := { s with freeCtr := n }) fifo
  case dummyBurst | endRun | shiftEnd => rfl

/-- Where a step of the block is enabled, the turn that is not named is one of those. -/
theorem nextTurn_of_enabled {s : State} (some_on : enabledSteps s ≠ []) :
    ∃ b, enabled b s = true ∧ nextTurn s = .block b := by
  unfold nextTurn
  split
  case h_1 none_on => exact absurd none_on some_on
  case h_2 b only => exact ⟨b, mem_enabledSteps.mp (by simp [only]), rfl⟩
  case h_3 b b' rest several =>
    refine ⟨_, mem_enabledSteps.mp ?_, rfl⟩
    have inside : Config.freeAgent s.freeCtr % (rest.length + 2) < (b :: b' :: rest).length :=
      Nat.mod_lt _ (Nat.succ_pos _)
    rw [several, List.getD_eq_getElem _ _ inside]
    exact List.getElem_mem inside

theorem step_of_no_turns {s : State} (turns : s.turns = []) : step s = ownTurn s := by
  rw [step, turns]

/-- Settles O9: the turn is a step of the block, whichever is chosen, and it leaves the counter alone. -/
theorem ownTurnTakesAnEnabledStep : Obligations.OwnTurnTakesAnEnabledStep := by
  intro s turns some_on
  obtain ⟨b, on, turn⟩ := nextTurn_of_enabled some_on
  refine ⟨b, if 2 ≤ (enabledSteps s).length then s.freeCtr + 1 else s.freeCtr, on, ?_⟩
  rw [step_of_no_turns turns, ownTurn, turn]
  exact congrArg Host.Outcome.next (blockStep_freeCtr b s _)

/-- Where no step of the block is enabled the requester moves, and no free choice is used up. -/
theorem step_eq_requesterTurn {s : State} (turns : s.turns = []) (none_on : enabledSteps s = []) :
    step s = requesterTurn s := by
  rw [step_of_no_turns turns, ownTurn, nextTurn, none_on]
  rfl

end Sys2Proof.Machine
end

section
/-! PROOF. What the invariant says of the counters, of IDLE and of the pins (R48, R120, R121): obligations O33, O34 and
O35. -/

namespace Sys2Proof.Machine

/-! ### The counters (R120) -/

/-- An exchange clocks one byte out and one in (R66). -/
theorem mosiBytes_length (es : List BusEvent) : (mosiBytes es).length = (misoBytes es).length := by
  induction es with
  | nil => rfl
  | cons e es ih => cases e <;> simpa [mosiBytes, misoBytes] using ih

section
variable {s : State} (inv : Inv s)
include inv

/-- Once all of a segment's bytes are taken, none is on its way (R111). -/
theorem Inv.quiet_of_all_taken (running : s.phase ≠ .idle) (taken : s.rxCount = s.seg.len.toNat) : s.sel.Quiet := by
  have count := inv.count running
  have bound := inv.bound running
  have noRx : s.sel.rxf.length = 0 := by omega
  have noTx : s.sel.txf.length = 0 := by omega
  have free : s.sel.inShifter = 0 := by omega
  exact ⟨List.length_eq_zero_iff.mp noTx, List.length_eq_zero_iff.mp noRx, by omega,
    by simpa [Ctl.inShifter] using free⟩

/-- In TAIL nothing is on its way. -/
theorem Inv.quiet_of_tail (tail : s.phase = .tail) : s.sel.Quiet :=
  inv.quiet_of_all_taken (by simp [tail]) (inv.tail tail).2

end

/-- The bytes taken and those in the RX FIFO are as many as were exchanged (R118, R120). -/
theorem SegInv.exchanged {s : State} (record : SegInv s) (running : s.phase ≠ .idle) :
    (misoBytes s.segEvents).length = s.rxCount + s.sel.rxf.length := by
  rw [← record.pairing running, List.length_append, (record.counted running).1]

/-- Settles O33: `done` counts the exchanges, and `started` adds the byte in the shifter. -/
theorem counterInvariant : Obligations.CounterInvariant := by
  intro s inv record running
  have done := record.exchanged running
  have count := inv.count running
  have bound := inv.bound running
  refine ⟨(misoBytes s.segEvents).length + s.sel.inShifter, (misoBytes s.segEvents).length, rfl, ?_, rfl, done, ?_, ?_,
    ?_,
    bound, fun taken => ?_⟩
  · change s.txCount = _ + s.sel.txf.length + s.sel.dummyPending
    omega
  · omega
  · omega
  · omega
  · obtain ⟨noTx, noRx, noDummy, free⟩ := inv.quiet_of_all_taken running taken
    exact ⟨noTx, noDummy, free, noRx⟩

/-! ### IDLE (R121) -/

theorem Inv.quiet_of_idle {s : State} (inv : Inv s) (idle : s.phase = .idle) (c : BitVec 1) : (s.ctl c).Quiet := by
  by_cases selected : c = s.ctrlSel
  · subst selected
    exact inv.idle idle
  · exact inv.other c selected

theorem Inv.enabledSteps_of_idle {s : State} (inv : Inv s) (idle : s.phase = .idle) : enabledSteps s = [] :=
  enabledSteps_eq_nil_of_idle_of_quiet idle (inv.idle idle)

theorem not_enabled_of_none_on {s : State} (none_on : enabledSteps s = []) (b : BlockStep) : ¬ enabled b s = true :=
  fun on => by simp [← mem_enabledSteps, none_on] at on

theorem requesterTurn_of_nothing_to_do {s : State} (client : s.client = []) (ended : s.prog[s.rpc]? = none) :
    requesterTurn s = .next s := by
  rw [requesterTurn]
  simp only [client, ended]

/-- Settles O34: with both cores quiet, only the requester could move. -/
theorem idleBlockIsQuiet : Obligations.IdleBlockIsQuiet := by
  intro s inv idle
  have none_on := inv.enabledSteps_of_idle idle
  refine ⟨fun c => ?_, fun b => ?_, fun turns client ended => ?_⟩
  · obtain ⟨noTx, noRx, noDummy, free⟩ := inv.quiet_of_idle idle c
    exact ⟨noTx, noRx, noDummy, free, inv.aux c⟩
  · have off := not_enabled_of_none_on none_on b
    exact ⟨by simpa using off, blockStep_of_not_enabled off⟩
  · rw [step_eq_requesterTurn turns none_on, requesterTurn_of_nothing_to_do client ended]

/-! ### The chip-select pins (R48) -/

/-- A legal mask has the bit of its line and no other. -/
theorem getLsbD_of_ssmaskLegal {ncs : Nat} {m : Byte} (legal : ssmaskLegal ncs m = true) (i : Nat) :
    m.getLsbD i = true ↔ i = idx m := by
  obtain ⟨line, -, inMask, rfl⟩ := (ssmaskLegal_iff_oneLine ncs m).mp legal
  rw [idx_shiftLeft inMask, BitVec.getLsbD_shiftLeft]
  simp
  omega

/-- Settles O35, by the invariant of the control bit and of the mask. -/
theorem chipSelectPins : Obligations.ChipSelectPins := by
  intro s inv c i
  rw [State.csN, inv.aux c, ← getLsbD_of_ssmaskLegal inv.mask i]
  simp only [Bool.not_eq_false', Bool.and_eq_true, decide_eq_true_eq]
  tauto

end Sys2Proof.Machine
end

section
/-! PROOF. What no step changes, and what it can only add to (R6, R10, R66, R117, R141):
obligations O37, O38 and O39. -/

namespace Sys2Proof.Machine

/-! ### Parameters and observation -/

/-- From `s` to `t` the parameters stay, and the trace and the values read grow by at most one entry each. -/
structure Observes (s t : State) : Prop where
  cfg : t.cfg = s.cfg
  trace : ∃ es, t.trace = s.trace ++ es ∧ es.length ≤ 1
  reads : ∃ vs, t.reads = s.reads ++ vs ∧ vs.length ≤ 1

namespace Observes
variable {s t u : State}

theorem nothing (cfg : t.cfg = s.cfg) (trace : t.trace = s.trace) (reads : t.reads = s.reads) : Observes s t :=
  ⟨cfg, ⟨[], by simp [trace], by simp⟩, ⟨[], by simp [reads], by simp⟩⟩

theorem read {v : Word} (cfg : t.cfg = s.cfg) (trace : t.trace = s.trace) (reads : t.reads = s.reads ++ [v]) :
    Observes s t :=
  ⟨cfg, ⟨[], by simp [trace], by simp⟩, ⟨[v], reads, by simp⟩⟩

theorem event {e : BusEvent} (cfg : t.cfg = s.cfg) (trace : t.trace = s.trace ++ [e]) (reads : t.reads = s.reads) :
    Observes s t :=
  ⟨cfg, ⟨[e], trace, by simp⟩, ⟨[], by simp [reads], by simp⟩⟩

theorem before (same : SameBlock s t) (seen : Observes t u) : Observes s u := by
  rw [SameBlock] at same
  rw [same] at seen
  exact ⟨seen.cfg, seen.trace, seen.reads⟩

theorem after (seen : Observes s t) (same : SameBlock t u) : Observes s u := by
  rw [SameBlock] at same
  rw [same]
  exact ⟨seen.cfg, seen.trace, seen.reads⟩

theorem assertCs (s : State) : Observes s (assertCs s) := by
  unfold Machine.assertCs
  split
  · exact .nothing rfl rfl rfl
  · exact .event rfl rfl rfl

theorem stepEffect {b : BlockStep} (on : enabled b s = true) : Observes s (stepEffect b s) := by
  cases b
  case discard =>
    obtain ⟨-, -, nonempty⟩ := (enabled_discard_iff s).mp on
    obtain ⟨b, rest, oldest⟩ := List.exists_cons_of_ne_nil nonempty
    rw [Machine.stepEffect, discardByte_of_cons oldest]
    exact .nothing rfl rfl rfl
  case leaveTail =>
    rw [Machine.stepEffect, leaveTail]
    split
    · exact .event rfl rfl rfl
    · exact .nothing rfl rfl rfl
  case shiftStart =>
    obtain ⟨k, effect, -, -⟩ := startByte_eq_setSel s
    rw [Machine.stepEffect, effect]
    exact .nothing rfl rfl rfl
  case shiftEnd => exact .event rfl rfl rfl
  case dummyBurst | endRun => exact .nothing rfl rfl rfl

theorem platformReset (s : State) : Observes s (platformReset s) := by
  unfold Machine.platformReset
  split
  · exact .event rfl rfl rfl
  · exact .nothing rfl rfl rfl

end Observes

theorem Act.observes {s t : State} (act : Act s t) : Observes s t := by
  cases act
  case accept =>
    obtain ⟨cfg, trace, reads⟩ := Observes.assertCs s
    exact ⟨cfg, trace, reads⟩
  case feed v ready =>
    rw [txdataWrite_of_ready v s ready]
    exact .nothing rfl rfl rfl
  case notLegal isRead =>
    cases isRead
    case false => exact .nothing rfl rfl rfl
    case true => exact .read rfl rfl rfl
  case block b on => exact .stepEffect on
  case take | noByte | read => exact .read rfl rfl rfl
  case nothing | error | select | crc | len | clear | setInit => exact .nothing rfl rfl rfl

/-- Settles O38, by the acts of a step. -/
theorem observationOnlyGrows : Obligations.ObservationOnlyGrows := by
  intro s t next
  have seen : Observes s t := by
    obtain ⟨rest, -, rfl⟩ | ⟨u, v, before, act, after⟩ := step_acts s t next
    · have turnUsed : SameBlock s { s with turns := rest } := rfl
      exact .before turnUsed (.platformReset _)
    · exact (Observes.before before act.observes).after after
  exact ⟨seen.cfg, seen.trace, seen.reads⟩

/-! ### The selection (R141) -/

/-- The selection is the same in `t`, or in `s` no command was open. -/
def SelectsBetweenCommands (s t : State) : Prop :=
  (t.ctrlSel = s.ctrlSel ∧ t.ssmask = s.ssmask) ∨ (s.ss = false ∧ s.phase = .idle)

/-- Of the acts SELECT alone changes the selection (R140). -/
theorem Act.selectsBetweenCommands {s t : State} (act : Act s t) : SelectsBetweenCommands s t := by
  cases act
  case select idle released _ => exact .inr ⟨released, idle⟩
  case accept =>
    obtain ⟨-, mask, ctrlSel, -, -⟩ := assertCs_fields s
    exact .inl ⟨ctrlSel, mask⟩
  case feed v ready =>
    rw [txdataWrite_of_ready v s ready]
    exact .inl ⟨rfl, rfl⟩
  case notLegal isRead => cases isRead <;> exact .inl ⟨rfl, rfl⟩
  case block b on =>
    cases b
    case discard =>
      obtain ⟨-, -, nonempty⟩ := (enabled_discard_iff s).mp on
      obtain ⟨b, rest, oldest⟩ := List.exists_cons_of_ne_nil nonempty
      rw [stepEffect, discardByte_of_cons oldest]
      exact .inl ⟨rfl, rfl⟩
    case leaveTail =>
      rw [stepEffect, leaveTail]
      split <;> exact .inl ⟨rfl, rfl⟩
    case shiftStart =>
      obtain ⟨k, effect, -, -⟩ := startByte_eq_setSel s
      rw [stepEffect, effect]
      exact .inl ⟨rfl, rfl⟩
    case dummyBurst | endRun | shiftEnd => exact .inl ⟨rfl, rfl⟩
  case nothing | error | crc | len | clear | take | noByte | read | setInit => exact .inl ⟨rfl, rfl⟩

/-- Settles O37: the requester and the schedule, around the act, select nothing. -/
theorem selectionChangesOnlyBetweenCommands : Obligations.SelectionChangesOnlyBetweenCommands := by
  intro s t next noReset changed
  obtain ⟨u, v, before, act, after⟩ := acts_of_step_not_reset next noReset
  rw [SameBlock] at before after
  rw [before] at act
  rw [after] at changed
  obtain ⟨ctrlSel, mask⟩ | between := act.selectsBetweenCommands
  · exact (changed.elim (absurd ctrlSel) (absurd mask))
  · exact between

/-! ### No byte is lost under stall (R117) -/

/-- The byte in the shifter has its place in the RX FIFO (R115, R117). -/
theorem Inv.room_of_shBusy {s : State} (inv : Inv s) (busy : s.sel.shBusy = true) : s.sel.rxf.length < s.cfg.rxd := by
  have room := inv.rxCap
  rw [Ctl.inShifter, if_pos busy] at room
  exact room

/-- Under stall no step of the block records anything. -/
theorem Inv.blockStep_marks {s : State} (inv : Inv s) (b : BlockStep) : (Machine.blockStep b s).marks = s.marks := by
  by_cases on : enabled b s = true
  case neg => rw [blockStep_of_not_enabled on]
  rw [blockStep_of_enabled on]
  cases b
  case discard => exact (discardByte_sameErrors s).marks
  case leaveTail => exact (leaveTail_sameErrors s).marks
  case shiftStart => exact (startByte_sameErrors s).marks
  case shiftEnd => rw [stepEffect, endByte_of_room (inv.room_of_shBusy on)]; rfl
  case dummyBurst | endRun => rfl

/-- An act marks an overflow only where one was marked before. -/
theorem Act.not_overflow {s t : State} (act : Act s t) (inv : Inv s) (marked : .rxOverflow ∈ t.marks) :
    .rxOverflow ∈ s.marks := by
  cases act
  case accept => exact (assertCs_sameErrors s).marks ▸ marked
  case feed v ready => rwa [txdataWrite_of_ready v s ready] at marked
  case notLegal isRead => cases isRead <;> simpa [ignoreAccess] using marked
  case block b on => exact (blockStep_of_enabled on ▸ inv.blockStep_marks b) ▸ marked
  case error | noByte => simpa using marked
  case nothing | select | crc | len | clear | take | read | setInit => exact marked

/-- Settles O39: the byte that ends finds the room its start asked for. -/
theorem stallLosesNoByte : Obligations.StallLosesNoByte := by
  refine ⟨fun s inv on => ⟨drawMiso s, ?_⟩, fun s t inv next marked => ?_⟩
  · rw [blockStep_of_enabled on, stepEffect, endByte_of_room (inv.room_of_shBusy on)]
    exact ⟨rfl, congrArg Ctl.rxf (State.setSel_sel s _), rfl⟩
  · obtain ⟨rest, -, rfl⟩ | ⟨u, v, before, act, after⟩ := step_acts s t next
    · rwa [platformReset_marks] at marked
    · rw [after] at marked
      have earlier := act.not_overflow (inv.of_sameBlock before) marked
      rwa [before] at earlier

end Sys2Proof.Machine
end

section
/-! PROOF. How a segment ends, and where it waits (R118, R122 to R126, R164, R225): obligations O40, O42 and O43. -/

namespace Sys2Proof.Machine

/-! ### The end of a segment -/

section
variable {s : State}

/-- A segment ends by the step that leaves TAIL and by no other (R112 to R114). -/
theorem leaveTail_of_ends {b : BlockStep} (running : s.phase ≠ .idle) (ended : (blockStep b s).phase = .idle) :
    b = .leaveTail ∧ enabled .leaveTail s = true := by
  by_cases on : enabled b s = true
  case neg =>
    rw [blockStep_of_not_enabled on] at ended
    exact absurd ended running
  rw [blockStep_of_enabled on] at ended
  cases b
  case leaveTail => exact ⟨rfl, on⟩
  case endRun => exact Phase.noConfusion ended
  case discard =>
    obtain ⟨-, -, nonempty⟩ := (enabled_discard_iff s).mp on
    obtain ⟨b, rest, oldest⟩ := List.exists_cons_of_ne_nil nonempty
    rw [stepEffect, discardByte_of_cons oldest] at ended
    exact absurd ended running
  case shiftStart =>
    obtain ⟨k, effect, -, -⟩ := startByte_eq_setSel s
    rw [stepEffect, effect] at ended
    exact absurd ended running
  case dummyBurst | shiftEnd => exact absurd ended running

/-- What the step that leaves TAIL leaves: IDLE, and CsHigh where LAST = 1 (R113, R114). -/
theorem leaveTail_fields (s : State) :
    (leaveTail s).phase = .idle ∧ (leaveTail s).crc = s.crc ∧
      (leaveTail s).trace = s.trace ++ (if s.seg.last then [.csHigh s.ctrlSel s.line] else []) ∧
      (leaveTail s).ss = if s.seg.last then false else s.ss := by
  rw [leaveTail]
  by_cases last : s.seg.last = true
  · simp only [last, if_true]
    exact ⟨rfl, rfl, rfl, rfl⟩
  · simp only [last]
    exact ⟨rfl, rfl, (List.append_nil _).symm, rfl⟩

section
variable (record : SegInv s) (running : s.phase ≠ .idle) (quiet : s.sel.Quiet)
include record running quiet

/-- With nothing on its way, all that was exchanged is taken (R124). -/
theorem SegInv.taken_of_quiet : s.hist.taken = misoBytes s.segEvents := by
  obtain ⟨-, noRx, -, -⟩ := quiet
  rw [← record.pairing running, noRx, List.append_nil]

/-- With nothing on its way, what went out is what the requester gave, or DUMMY_BYTE throughout (R118). -/
theorem SegInv.mosiBytes_of_quiet :
    mosiBytes s.segEvents =
      if s.seg.txp then s.hist.fed else List.replicate (mosiBytes s.segEvents).length s.cfg.dummyByte := by
  obtain ⟨noTx, -, -, free⟩ := quiet
  have nothing : s.sel.shifting = [] := by simp [Ctl.shifting, free]
  by_cases txp : s.seg.txp = true
  · rw [if_pos txp, record.sent running txp, nothing, noTx, List.append_nil, List.append_nil]
  · rw [if_neg txp]
    have dummies := record.dummies running (by simpa using txp)
    rw [nothing, List.append_nil] at dummies
    exact List.eq_replicate_iff.mpr ⟨rfl, dummies⟩

end

/-- Settles O40: the segment ends in TAIL, where its bytes are all taken and nothing is on its way. -/
theorem segmentEndsComplete : Obligations.SegmentEndsComplete := by
  rintro s t b inv record running rfl ended
  obtain ⟨rfl, on⟩ := leaveTail_of_ends running ended
  obtain ⟨tail, -⟩ := (enabled_leaveTail_iff s).mp on
  obtain ⟨-, allTaken⟩ := inv.tail tail
  have quiet := inv.quiet_of_tail tail
  have taken := record.taken_of_quiet running quiet
  have misoLength : (misoBytes s.segEvents).length = s.seg.len.toNat := by
    rw [← taken, (record.counted running).1, allTaken]
  have mosiLength : (mosiBytes s.segEvents).length = s.seg.len.toNat := (mosiBytes_length _).trans misoLength
  have mosi := record.mosiBytes_of_quiet running quiet
  rw [mosiLength] at mosi
  obtain ⟨-, crc, trace, ss⟩ := leaveTail_fields s
  rw [blockStep_of_enabled on]
  refine ⟨record.events running, mosiLength, misoLength, taken, mosi, ?_, trace, ?_⟩
  · rw [stepEffect, crc, record.folded running, taken]
  · rw [stepEffect, ss, inv.asserted running]
    cases s.seg.last <;> rfl

/-! ### Segments of length 0 (R122, R123) -/

/-- XFER in IDLE with INIT_DONE = 1 is accepted (R101). -/
theorem exec_xfer_accepted (txp rxp last crcen : Bool) (idle : s.phase = .idle) (init : s.initDone s.ctrlSel = true) :
    exec (.xfer txp rxp last crcen) s = .next (acceptSegment txp rxp last crcen s) :=
  congrArg Host.Outcome.next ((issueCommand_of_idle idle _ _).trans (if_pos init))

theorem enabledSteps_eq_singleton {b : BlockStep} (only : ∀ c, enabled c s = true ↔ c = b) : enabledSteps s = [b] := by
  have same : enabledSteps s = allSteps.filter (· = b) :=
    List.filter_congr fun c _ => by rw [Bool.eq_iff_iff, only c, decide_eq_true_iff]
  rw [same]
  cases b <;> decide

/-- Where a running segment's bytes are all taken, only the end of RUN is left to do. -/
theorem Inv.enabledSteps_of_all_taken (inv : Inv s) (run : s.phase = .run) (asked : s.txCount = s.seg.len.toNat)
    (taken : s.rxCount = s.seg.len.toNat) : enabledSteps s = [.endRun] := by
  obtain ⟨noTx, noRx, noDummy, free⟩ := inv.quiet_of_all_taken (by simp [run]) taken
  refine enabledSteps_eq_singleton fun c => ?_
  cases c
  case dummyBurst => simp [enabled_dummyBurst_iff, asked]
  case discard => simp [enabled_discard_iff, noRx]
  case endRun => simp [enabled_endRun_iff, run, asked, taken]
  case leaveTail => simp [enabled_leaveTail_iff, run]
  case shiftStart => simp [enabled_shiftStart_iff, noTx, noDummy]
  case shiftEnd => simp [enabled, free]

/-- In TAIL only leaving it is left to do. -/
theorem Inv.enabledSteps_of_tail (inv : Inv s) (tail : s.phase = .tail) : enabledSteps s = [.leaveTail] := by
  obtain ⟨noTx, noRx, noDummy, free⟩ := inv.quiet_of_tail tail
  refine enabledSteps_eq_singleton fun c => ?_
  cases c
  case dummyBurst => simp [enabled_dummyBurst_iff, tail]
  case discard => simp [enabled_discard_iff, noRx]
  case endRun => simp [enabled_endRun_iff, tail]
  case leaveTail => simp [enabled_leaveTail_iff, tail, noTx, noDummy, free]
  case shiftStart => simp [enabled_shiftStart_iff, noTx, noDummy]
  case shiftEnd => simp [enabled, free]

/-- Where one step is enabled, it is that one's turn. -/
theorem blockStep_of_only {b : BlockStep} (only : enabledSteps s = [b]) : blockStep b s = stepEffect b s :=
  blockStep_of_enabled (mem_enabledSteps.mp (by simp [only]))

theorem acceptSegment_trace (txp rxp last crcen : Bool) (s : State) :
    (acceptSegment txp rxp last crcen s).trace = s.trace ++ if s.ss then [] else [.csLow s.ctrlSel s.line] := by
  change (assertCs s).trace = _
  rw [assertCs_eq]

end

/-- Settles O42: with no byte to ask for, acceptance leaves the end of RUN and then the end of TAIL. -/
theorem zeroLengthSegment : Obligations.ZeroLengthSegment := by
  intro txp rxp last crcen s inv idle init len
  refine ⟨acceptSegment txp rxp last crcen s, exec_xfer_accepted _ _ _ _ idle init, ?_⟩
  have acceptedInv := inv.acceptSegment idle txp rxp last crcen
  obtain ⟨-, mask, ctrlSel, asserted, crc⟩ := assertCs_fields s
  have trace := acceptSegment_trace txp rxp last crcen s
  generalize accepted : acceptSegment txp rxp last crcen s = t at acceptedInv trace ⊢
  have zero : t.seg.len.toNat = 0 := by rw [← accepted]; exact congrArg BitVec.toNat len
  have isLast : t.seg.last = last := by rw [← accepted]; rfl
  have onlyEndRun : enabledSteps t = [.endRun] := by
    refine acceptedInv.enabledSteps_of_all_taken ?_ ?_ ?_
    · rw [← accepted]; rfl
    · rw [zero, ← accepted]; rfl
    · rw [zero, ← accepted]; rfl
  have onlyLeaveTail : enabledSteps (blockStep .endRun t) = [.leaveTail] := by
    refine (acceptedInv.blockStep .endRun).enabledSteps_of_tail ?_
    rw [blockStep_of_only onlyEndRun]; rfl
  have ends : blockStep .leaveTail (blockStep .endRun t) = leaveTail { t with phase := .tail } := by
    rw [blockStep_of_only onlyLeaveTail, blockStep_of_only onlyEndRun]; rfl
  obtain ⟨endIdle, endCrc, endTrace, endSs⟩ := leaveTail_fields { t with phase := .tail }
  rw [ends]
  refine ⟨onlyEndRun, onlyLeaveTail, endIdle, endSs.trans ?_, endCrc.trans ?_, endTrace.trans ?_⟩
  · have low : t.ss = true := by rw [← accepted]; exact asserted
    simp only [isLast, low]
    cases last <;> rfl
  · rw [← accepted]; exact crc
  · have line : t.line = idx s.ssmask := by rw [← accepted]; exact congrArg idx mask
    have core : t.ctrlSel = s.ctrlSel := by rw [← accepted]; exact ctrlSel
    change t.trace ++ (if t.seg.last then [.csHigh t.ctrlSel t.line] else []) = _
    rw [trace, isLast, line, core]
    rfl

/-! ### Where a segment waits (R126, R225) -/

section
variable {s : State} (inv : Inv s)
include inv

theorem Inv.rxRoom_iff : s.rxRoom = true ↔ s.sel.rxf.length < s.cfg.rxd := by
  rw [State.rxRoom_iff]
  exact ⟨fun room => room inv.stall, fun room _ => room⟩

theorem Inv.rxf_ne_nil_of_full (isFull : s.sel.rxf.length = s.cfg.rxd) : s.sel.rxf ≠ [] := by
  obtain ⟨-, depth, -, -⟩ := inv.params
  exact List.ne_nil_of_length_pos (by omega)

/-- A full RX FIFO whose bytes are the requester's to take holds the shifter, and with it the segment. -/
theorem Inv.hangs_of_rx_full (run : s.phase = .run) (free : s.sel.shBusy = false) (rxp : s.seg.rxp = true)
    (isFull : s.sel.rxf.length = s.cfg.rxd)
    (waiting : s.seg.txp = true ∨ 0 < s.sel.dummyPending ∨ s.txCount = s.seg.len.toNat) : enabledSteps s = [] := by
  refine List.filter_eq_nil_iff.mpr fun b _ on => ?_
  cases b
  case dummyBurst =>
    obtain ⟨-, noTx, left, -, noDummy⟩ := (enabled_dummyBurst_iff s).mp on
    obtain txp | pending | asked := waiting
    · simp [noTx] at txp
    · omega
    · omega
  case discard => simp [enabled_discard_iff, rxp] at on
  case endRun =>
    obtain ⟨-, -, taken⟩ := (enabled_endRun_iff s).mp on
    obtain ⟨-, noRx, -, -⟩ := inv.quiet_of_all_taken (by simp [run]) taken
    exact inv.rxf_ne_nil_of_full isFull noRx
  case leaveTail => simp [enabled_leaveTail_iff, run] at on
  case shiftStart =>
    obtain ⟨-, -, room⟩ := (enabled_shiftStart_iff s).mp on
    exact absurd (inv.rxRoom_iff.mp room) (by omega)
  case shiftEnd => simp [enabled, free] at on

/-- An empty TX FIFO before the last byte waits for the requester. -/
theorem Inv.hangs_of_tx_empty (run : s.phase = .run) (free : s.sel.shBusy = false) (txp : s.seg.txp = true)
    (noTx : s.sel.txf = []) (kept : s.seg.rxp = true ∨ s.sel.rxf = []) (left : s.txCount < s.seg.len.toNat) :
    enabledSteps s = [] := by
  have noDummy : s.sel.dummyPending = 0 := by
    have source := inv.source (by simp [run])
    rwa [if_pos txp] at source
  refine List.filter_eq_nil_iff.mpr fun b _ on => ?_
  cases b
  case dummyBurst => simp [enabled_dummyBurst_iff, txp] at on
  case discard =>
    obtain ⟨-, noRxp, nonempty⟩ := (enabled_discard_iff s).mp on
    exact kept.elim (by simp [noRxp]) nonempty
  case endRun =>
    obtain ⟨-, asked, -⟩ := (enabled_endRun_iff s).mp on
    omega
  case leaveTail => simp [enabled_leaveTail_iff, run] at on
  case shiftStart => simp [enabled_shiftStart_iff, noTx, noDummy] at on
  case shiftEnd => simp [enabled, free] at on

/-- A running segment of which no step is enabled waits for an access that would be accepted. -/
theorem Inv.waits (running : s.phase ≠ .idle) (none_on : enabledSteps s = []) : s.txrdy = true ∨ s.rxavl = true := by
  have off := not_enabled_of_none_on none_on
  obtain ⟨txDepth, rxDepth, -, -⟩ := inv.params
  have run : s.phase = .run := by
    cases phase : s.phase
    case idle => exact absurd phase running
    case run => rfl
    case tail => simp [inv.enabledSteps_of_tail phase] at none_on
  have free : s.sel.shBusy = false := by simpa [enabled] using off .shiftEnd
  by_cases noRx : s.sel.rxf = []
  case neg =>
    have rxp : s.seg.rxp = true := by simpa [enabled_discard_iff, run, noRx] using off .discard
    exact .inr (s.rxavl_iff.mpr ⟨run, rxp, noRx⟩)
  have room : s.rxRoom = true := inv.rxRoom_iff.mpr (by rw [noRx]; exact rxDepth)
  obtain ⟨noTx, noDummy⟩ : s.sel.txf = [] ∧ s.sel.dummyPending = 0 := by
    simpa [enabled_shiftStart_iff, free, room] using off .shiftStart
  have count := inv.count running
  have bound := inv.bound running
  simp only [noRx, noTx, noDummy, Ctl.inShifter, free, List.length_nil, Bool.false_eq_true, if_false] at count
  have left : s.txCount < s.seg.len.toNat := by
    by_contra noneLeft
    exact off .endRun ((enabled_endRun_iff s).mpr ⟨run, by omega, by omega⟩)
  have txp : s.seg.txp = true := by simpa [enabled_dummyBurst_iff, run, left, noTx, noDummy] using off .dummyBurst
  exact .inl (s.txrdy_iff.mpr ⟨run, txp, left, by rw [noTx]; exact txDepth⟩)

end

theorem core_run_succ {M : Host.Core} {s t : M.State} (next : M.step s = .next t) (k : Nat) :
    M.run (k + 1) s = M.run k t := by
  rw [Host.Core.run, next]

theorem run_succ {s t : State} (next : step s = .next t) (k : Nat) :
    Host.Core.run Sys2Proof.core (k + 1) s = Host.Core.run Sys2Proof.core k t :=
  core_run_succ (M := Sys2Proof.core) next k

/-- A state that steps to itself stays for ever. -/
theorem run_of_step_eq_self {s : State} (same : step s = .next s) (k : Nat) :
    Host.Core.run Sys2Proof.core k s = .next s := by
  induction k with
  | zero => rfl
  | succ k ih => exact (run_succ same k).trans ih

/-- Settles O43: each cause of the wait leaves no step enabled, and where none is enabled one of the two flags is 1. -/
theorem requesterCausedHang : Obligations.RequesterCausedHang := by
  simp only [Obligations.RequesterCausedHang, State.statusWord_getLsbD, State.statusBit]
  refine ⟨fun s inv run free => ⟨fun txp rxp txFull rxFull => ⟨?_, ?_, ?_⟩,
    fun rxp rxFull waiting => inv.hangs_of_rx_full run free rxp rxFull waiting,
    fun txp noTx kept left => inv.hangs_of_tx_empty run free txp noTx kept left, fun none_on turns client ended => ?_⟩,
    fun s inv running none_on => inv.waits running none_on⟩
  · exact inv.hangs_of_rx_full run free rxp rxFull (.inl txp)
  · exact s.txrdy_eq_false_iff.mpr (.inr (.inr (.inr txFull.ge)))
  · exact s.rxavl_iff.mpr ⟨run, rxp, inv.rxf_ne_nil_of_full rxFull⟩
  · refine run_of_step_eq_self ?_
    rw [step_eq_requesterTurn turns none_on, requesterTurn_of_nothing_to_do client ended]

end Sys2Proof.Machine
end

section
/-! PROOF. Folding a byte into the CRC is long division, bit by bit (R160): obligation O48. -/

namespace Sys2Proof.Machine

/-- One step of long division by CRC_POLY: the next message bit enters at the top of the remainder. -/
def crcDivide (r : BitVec 16) (bit : Bool) : BitVec 16 :=
  if Bool.xor (r.getLsbD 15) bit then (r <<< 1) ^^^ 0x1021#16 else r <<< 1

/-- A round on a remainder with message bits XORed into it divides by the top one and moves the others up. -/
theorem crcShift_xor (r x : BitVec 16) : crcShift (r ^^^ x) = crcDivide r (x.getLsbD 15) ^^^ (x <<< 1) := by
  have shifted : (r ^^^ x) <<< 1 = (r <<< 1) ^^^ (x <<< 1) := BitVec.shiftLeft_xor_distrib ..
  rw [crcShift, crcDivide, BitVec.getLsbD_xor, shifted]
  split
  · rw [BitVec.xor_assoc, BitVec.xor_assoc, BitVec.xor_comm (x <<< 1)]
    rfl
  · rfl

/-- `n` rounds divide by the top `n` message bits. -/
theorem crcShifts_xor (r x : BitVec 16) {n : Nat} (inWord : n ≤ 16) :
    crcShifts n (r ^^^ x) = ((List.range n).map fun i => x.getLsbD (15 - i)).foldl crcDivide r ^^^ (x <<< n) := by
  induction n generalizing r x with
  | zero => rw [BitVec.shiftLeft_zero]; rfl
  | succ n ih =>
    have bits : (List.range n).map (fun i => (x <<< 1).getLsbD (15 - i)) =
        (List.range n).map (fun i => x.getLsbD (15 - (i + 1))) := by
      refine List.map_congr_left fun i inRange => ?_
      have below : i < n := List.mem_range.mp inRange
      rw [BitVec.getLsbD_shiftLeft]
      simp only [show 15 - i < 16 by omega, show ¬ 15 - i < 1 by omega, decide_true, decide_false, Bool.not_false,
        Bool.true_and, Nat.sub_sub]
    rw [crcShifts, crcShift_xor, ih _ _ (by omega), bits, List.range_succ_eq_map, List.map_cons, List.foldl_cons,
      List.map_map, ← BitVec.shiftLeft_add, Nat.add_comm n 1]
    rfl

/-- Settles O48: the byte stands at the top of the word, and its eight bits are the ones divided by. -/
theorem crcIsBitSerialDivision : Obligations.CrcIsBitSerialDivision := by
  intro c b
  have shiftedOut : (b.zeroExtend 16 <<< 8) <<< 8 = 0#16 := by
    rw [← BitVec.shiftLeft_add]
    exact BitVec.shiftLeft_eq_zero (by decide)
  have top (i : Nat) (inByte : i < 8) : (b.zeroExtend 16 <<< 8).getLsbD (15 - i) = b.getLsbD (7 - i) := by
    rw [BitVec.getLsbD_shiftLeft, BitVec.getLsbD_setWidth, show 15 - i - 8 = 7 - i by omega]
    simp [show 15 - i < 16 by omega, show ¬ 15 - i < 8 by omega, show 7 - i < 16 by omega]
  rw [crc16Upd, crcShifts_xor c _ (by decide), shiftedOut, BitVec.xor_zero]
  simp only [List.range, List.range.loop, List.map, top, Nat.reduceLT]
  rfl

end Sys2Proof.Machine
end

section
/-! PROOF. The requester's sequences and the platform's turns, step by step (R33, R182 to R193, R250, R251, R261):
obligations O51, O55, O57 and O59. -/

namespace Sys2Proof.Machine

/-! ### The SPI-NOR commands -/

/-- CUSTOM, by which of its two parts are empty (R193). -/
theorem customSequence_eq (tx : List Byte) (n : Word) :
    customSequence tx n =
      (if tx = [] then [] else [.seg ⟨true, false, decide (n = 0#32), false⟩ (BitVec.ofNat 32 tx.length) tx]) ++
        (if n = 0#32 then [] else [.seg ⟨false, true, true, false⟩ n []]) := by
  cases tx <;> rfl

/-- Settles O51: each command puts its sequence before what is left to do; a POLL goes round again by its test. -/
theorem spiNorSequences : Obligations.SpiNorSequences := by
  refine ⟨fun s o3 off n src => ⟨rfl, rfl, rfl, rfl, rfl, rfl, rfl, rfl, rfl, ?_⟩,
    fun s off mask val n b tx => ⟨rfl, rfl, rfl, ?_⟩,
    fun s t off mask val v rest => ⟨rfl, rfl, fun went => ?_⟩⟩
  · refine congrArg Host.Outcome.next ?_
    rw [startSequence, customSequence_eq]
    by_cases none : n = 0#32 <;> simp [none]
  · rw [runPseudo, customSequence_eq]
    rfl
  · change andThen (runRequest (.read off 4) { s with client := rest }) _ = _
    rw [went, andThen]
    rfl

/-- A turn of the requester within a pseudo-instruction takes the next micro-statement from the queue. -/
theorem requesterTurn_of_client {s : State} {op : ClientOp} {rest : List ClientOp} (client : s.client = op :: rest) :
    requesterTurn s = clientStep op { s with client := rest } := by
  rw [requesterTurn, client]

/-- Bit 0 of a byte, tested as the listing of R188 tests it. -/
theorem and_one_ne_zero_iff (x : Byte) : x &&& 0x01#8 ≠ 0#8 ↔ x.getLsbD 0 = true := by
  revert x
  decide

theorem waitPass_eq (x : Byte) : waitPass x = if x &&& 0x01#8 ≠ 0#8 then [.waitIdle] else [] := by
  simp only [waitPass, and_one_ne_zero_iff]

theorem waitTurn_of_cons {s : State} {x : Byte} {xs : List Byte} (buf : s.rxbuf = x :: xs) :
    waitTurn s = thenDo (waitPass x) s := by
  rw [waitTurn, buf]

theorem waitTurn_of_nil {s : State} (buf : s.rxbuf = []) :
    waitTurn s = thenDo (waitPass (Config.freeStatus s.freeCtr)) { s with freeCtr := s.freeCtr + 1 } := by
  rw [waitTurn, buf]

/-- Settles O55, by the byte that is tested. -/
theorem waitIdleLoops : Obligations.WaitIdleLoops := by
  intro s rest
  refine ⟨rfl, fun x xs buf => ?_, fun buf => ⟨Config.freeStatus s.freeCtr, ?_⟩⟩
  · rw [requesterTurn_of_client rfl, clientStep, waitTurn_of_cons (s := { s with client := rest }) buf, waitPass_eq]
    rfl
  · rw [requesterTurn_of_client rfl, clientStep, waitTurn_of_nil (s := { s with client := rest }) buf, waitPass_eq]
    rfl

theorem crcPass_of_done (off : Word) (size : Nat) : crcPass off size size = [.read 0x18] := if_pos le_rfl

theorem crcPass_of_lt (off : Word) {size done : Nat} (more : done < size) :
    crcPass off size done =
      [segTx false (hdr 0x03#8 0x13#8 (BitVec.ofNat 32 (off.toNat + done))),
        segCrcLast (BitVec.ofNat 32 (min 1024 (size - done))), .crcLoop off size (done + min 1024 (size - done))] :=
  if_neg (by omega)

/-! ### The platform -/

theorem step_of_turns {s : State} {t : Turn} {rest : List Turn} (turns : s.turns = t :: rest) :
    step s = runTurn t { s with turns := rest } := by
  rw [step, turns]

/-- Settles O57, by whether a line was low. -/
theorem platformResetEffect : Obligations.PlatformResetEffect := by
  intro s rest turns
  rw [step_of_turns turns, runTurn, platformReset]
  refine congrArg Host.Outcome.next ?_
  by_cases low : s.ss = true
  · simp only [low, if_true]
    rfl
  · simp only [low, Bool.false_eq_true, if_false, List.append_nil]
    rfl

/-- INIT_DONE is held from the platform where a command is open on the core (R261). -/
theorem initHeld_iff (c : BitVec 1) (s : State) :
    initHeld c s = true ↔ c = s.ctrlSel ∧ (s.phase ≠ .idle ∨ s.ss = true) := by
  simp [initHeld, State.busy]

theorem platformSetInit_lost_iff (c : BitVec 1) (v : Bool) (s : State) :
    (initHeld c s && s.initDone c && !v) = true ↔
      c = s.ctrlSel ∧ (s.phase ≠ .idle ∨ s.ss = true) ∧ s.initDone c = true ∧ v = false := by
  rw [Bool.and_eq_true, Bool.and_eq_true, initHeld_iff, Bool.not_eq_true', and_assoc, and_assoc]

/-- Settles O59, by whether the fall is one R261 forbids. -/
theorem initDoneInput : Obligations.InitDoneInput := by
  intro s c v rest turns
  rw [step_of_turns turns, runTurn, platformSetInit]
  refine ⟨fun selected held init fall => ?_, fun allowed => ?_⟩
  · exact if_pos ((platformSetInit_lost_iff c v { s with turns := rest }).mpr ⟨selected, held, init, fall⟩)
  · rw [if_neg fun lost => allowed ((platformSetInit_lost_iff c v { s with turns := rest }).mp lost)]
    refine ⟨_, rfl, ?_, fun d other => ?_, rfl⟩
    · rcases bit_cases c with rfl | rfl <;> rfl
    · rcases bit_cases c with rfl | rfl
      · have high : d = 1#1 := (bit_cases d).resolve_left other
        rw [high]
        rfl
      · have low : d = 0#1 := (bit_cases d).resolve_right other
        rw [low]
        rfl

end Sys2Proof.Machine
end

section
/-! PROOF. READCRC's steps (R190, R192): obligation O56, in a namespace where its name is free. -/

namespace Sys2Proof.Laws
open Sys2Proof.Machine

/-- Settles O56, by the range and by what is left of it. -/
theorem readcrcSequence : Obligations.ReadcrcSequence := by
  intro s off size done rest
  refine ⟨fun inRange => ?_, fun outside => ?_, fun isDone => ?_, fun more => ?_⟩
  · have inRange : readcrcInRange off size = true := decide_eq_true inRange
    rw [runPseudo, if_pos inRange]
    rfl
  · have outside : ¬ readcrcInRange off size = true := by simp [readcrcInRange]; omega
    rw [runPseudo, if_neg outside]
  · rw [requesterTurn_of_client rfl, clientStep, isDone, crcPass_of_done]
    rfl
  · rw [requesterTurn_of_client rfl, clientStep, crcPass_of_lt off more]
    rfl

end Sys2Proof.Laws
end

section
/-! PROOF. Runs of the machine, and the progress the block's own steps make (R8, R125): obligation O44. -/

namespace Sys2Proof.Machine

/-! ### Runs -/

/-- `k` steps lead from `s` to `t`. -/
def ReachesIn (k : Nat) (s t : State) : Prop := Host.Core.run Sys2Proof.core k s = .next t

/-- A run leads from `s` to `t`. -/
def Reaches (s t : State) : Prop := ∃ k, ReachesIn k s t

theorem ReachesIn.refl (s : State) : ReachesIn 0 s s := rfl

theorem ReachesIn.head {k : Nat} {s t u : State} (next : step s = .next t) (later : ReachesIn k t u) :
    ReachesIn (k + 1) s u := (run_succ next k).trans later

theorem Reaches.refl (s : State) : Reaches s s := ⟨0, .refl s⟩

theorem Reaches.head {s t u : State} (next : step s = .next t) (later : Reaches t u) : Reaches s u := by
  obtain ⟨k, run⟩ := later
  exact ⟨k + 1, .head next run⟩

theorem core_run_add {M : Host.Core} {j k : Nat} {s t : M.State} (run : M.run j s = .next t) :
    M.run (j + k) s = M.run k t := by
  induction j generalizing s with
  | zero => cases run; rw [Nat.zero_add]
  | succ j ih =>
    rw [Nat.succ_add]
    cases next : M.step s
    case next u =>
      rw [core_run_succ next] at run ⊢
      exact ih run
    case fault => rw [Host.Core.run, next] at run; cases run
    case refused => rw [Host.Core.run, next] at run; cases run

theorem Reaches.trans {s t u : State} (first : Reaches s t) (second : Reaches t u) : Reaches s u := by
  obtain ⟨j, first⟩ := first
  obtain ⟨k, second⟩ := second
  exact ⟨j + k, (core_run_add (M := Sys2Proof.core) first).trans second⟩

/-! ### What a step of the block leaves as it is -/

/-- `t` differs from `s` only in the transfer: the counters, the FIFOs, the shifter, the CRC, the bus, and where the
segment stands. -/
def SameOutsideTransfer (s t : State) : Prop :=
  t = { s with
    ss := t.ss, phase := t.phase, txCount := t.txCount, rxCount := t.rxCount, core0 := t.core0, core1 := t.core1
    crc := t.crc, trace := t.trace, miso := t.miso, freeCtr := t.freeCtr
    hist := { s.hist with taken := t.hist.taken, bursts := t.hist.bursts } }

theorem SameOutsideTransfer.seg {s t : State} (same : SameOutsideTransfer s t) : t.seg = s.seg := by rw [same]
theorem SameOutsideTransfer.turns {s t : State} (same : SameOutsideTransfer s t) : t.turns = s.turns := by rw [same]
theorem SameOutsideTransfer.marks {s t : State} (same : SameOutsideTransfer s t) : t.marks = s.marks := by rw [same]
theorem SameOutsideTransfer.reads {s t : State} (same : SameOutsideTransfer s t) : t.reads = s.reads := by rw [same]

theorem SameOutsideTransfer.refl (s : State) : SameOutsideTransfer s s := rfl

theorem SameOutsideTransfer.trans {s t u : State} (first : SameOutsideTransfer s t) (second : SameOutsideTransfer t u) :
    SameOutsideTransfer s u := by
  rw [SameOutsideTransfer] at *
  rw [second, first]

theorem Inv.sameOutsideTransfer_stepEffect {s : State} (inv : Inv s) {b : BlockStep} (on : enabled b s = true) :
    SameOutsideTransfer s (stepEffect b s) := by
  cases b
  case discard =>
    obtain ⟨-, -, nonempty⟩ := (enabled_discard_iff s).mp on
    obtain ⟨b, rest, oldest⟩ := List.exists_cons_of_ne_nil nonempty
    rw [stepEffect, discardByte_of_cons oldest]
    rfl
  case leaveTail =>
    rw [stepEffect, leaveTail]
    split <;> rfl
  case shiftStart =>
    obtain ⟨k, effect, -, -⟩ := startByte_eq_setSel s
    rw [stepEffect, effect]
    rfl
  case shiftEnd =>
    rw [stepEffect, endByte_of_room (inv.room_of_shBusy on)]
    rfl
  case dummyBurst | endRun => rfl

/-! ### Progress -/

/-- How far the sequencer is from IDLE. -/
def Phase.left : Phase → Nat
  | .idle => 0
  | .tail => 1
  | .run => 2

/-- A bound on the steps a segment still takes: each byte goes through four stages, from being asked for to being
taken, and the segment through two ends. -/
def State.workLeft (s : State) : Nat :=
  4 * (s.seg.len.toNat - s.txCount) + 3 * (s.sel.txf.length + s.sel.dummyPending) + 2 * s.sel.inShifter +
    s.sel.rxf.length + s.phase.left

/-- Each step of the block takes a byte a stage further, or the segment to its next phase. -/
theorem workLeft_stepEffect {b : BlockStep} {s : State} (inv : Inv s) (on : enabled b s = true) :
    (stepEffect b s).workLeft < s.workLeft := by
  cases b
  case dummyBurst =>
    obtain ⟨run, noTx, left, noTxf, noDummy⟩ := (enabled_dummyBurst_iff s).mp on
    have after : (issueBurst s).sel = { s.sel with dummyPending := burstSize s } := State.setSel_sel s _
    have size : 1 ≤ burstSize s ∧ burstSize s ≤ s.seg.len.toNat - s.txCount := by
      rw [burstSize, Config.maxDummyBurst]
      omega
    have effect : (issueBurst s).workLeft =
        4 * (s.seg.len.toNat - (s.txCount + burstSize s)) + 3 * (s.sel.txf.length + burstSize s) +
          2 * s.sel.inShifter + s.sel.rxf.length + s.phase.left := by
      rw [State.workLeft, after]
      rfl
    rw [stepEffect, effect, State.workLeft, noDummy]
    omega
  case discard =>
    obtain ⟨-, -, nonempty⟩ := (enabled_discard_iff s).mp on
    obtain ⟨b, rest, oldest⟩ := List.exists_cons_of_ne_nil nonempty
    have effect : (takeByte b rest s).workLeft =
        4 * (s.seg.len.toNat - s.txCount) + 3 * (s.sel.txf.length + s.sel.dummyPending) + 2 * s.sel.inShifter +
          rest.length + s.phase.left := by
      rw [State.workLeft, takeByte_sel]
      rfl
    rw [stepEffect, discardByte_of_cons oldest, effect, State.workLeft, oldest, List.length_cons]
    omega
  case endRun =>
    obtain ⟨run, -, -⟩ := (enabled_endRun_iff s).mp on
    have left : s.phase.left = 2 := by rw [run]; rfl
    exact Nat.add_lt_add_left (by rw [left]; exact Nat.one_lt_two) _
  case leaveTail =>
    obtain ⟨tail, -⟩ := (enabled_leaveTail_iff s).mp on
    have left : s.phase.left = 1 := by rw [tail]; rfl
    rw [stepEffect, leaveTail]
    split
    · have after : (releaseCs s).sel = { s.sel with auxCs := false } := State.setSel_sel s _
      rw [State.workLeft, after]
      exact Nat.add_lt_add_left (by rw [left]; exact Nat.zero_lt_one) _
    · exact Nat.add_lt_add_left (by rw [left]; exact Nat.zero_lt_one) _
  case shiftStart =>
    obtain ⟨free, waiting, -⟩ := (enabled_shiftStart_iff s).mp on
    have notShifting : s.sel.inShifter = 0 := by simp [Ctl.inShifter, free]
    cases fifo : s.sel.txf
    case nil =>
      have pending : 0 < s.sel.dummyPending := by simpa [fifo] using waiting
      have effect : (startByte s).workLeft =
          4 * (s.seg.len.toNat - s.txCount) + 3 * (s.sel.txf.length + (s.sel.dummyPending - 1)) + 2 * 1 +
            s.sel.rxf.length + s.phase.left := by
        rw [startByte_of_nil fifo, State.workLeft, State.setSel_sel]
        rfl
      rw [stepEffect, effect, State.workLeft, notShifting]
      omega
    case cons b rest =>
      have effect : (startByte s).workLeft =
          4 * (s.seg.len.toNat - s.txCount) + 3 * (rest.length + s.sel.dummyPending) + 2 * 1 +
            s.sel.rxf.length + s.phase.left := by
        rw [startByte_of_cons fifo, State.workLeft, State.setSel_sel]
        rfl
      rw [stepEffect, effect, State.workLeft, notShifting, fifo, List.length_cons]
      omega
  case shiftEnd =>
    have busy : s.sel.shBusy = true := on
    have shifting : s.sel.inShifter = 1 := by simp [Ctl.inShifter, busy]
    have effect : (endByte s).workLeft =
        4 * (s.seg.len.toNat - s.txCount) + 3 * (s.sel.txf.length + s.sel.dummyPending) + 2 * 0 +
          (s.sel.rxf ++ [drawMiso s]).length + s.phase.left := by
      rw [State.workLeft, endByte_sel, pushRx, (full_eq_false_iff _ _).mpr (inv.room_of_shBusy busy)]
      rfl
    rw [stepEffect, effect, State.workLeft, shifting, List.length_append, List.length_singleton]
    omega

/-- Four stages a byte and two ends bound the work of a segment at any time. -/
theorem Inv.workLeft_le {s : State} (inv : Inv s) (running : s.phase ≠ .idle) :
    s.workLeft ≤ 4 * s.seg.len.toNat + 2 := by
  have count := inv.count running
  have bound := inv.bound running
  have phase : s.phase.left ≤ 2 := by cases s.phase <;> decide
  rw [State.workLeft]
  omega

/-- One of the block's steps, under the schedule where no turn is named (log 2). -/
structure OwnStep (b : BlockStep) (s t : State) : Prop where
  on : enabled b s = true
  next : step s = .next t
  same : SameOutsideTransfer s t
  work : t.workLeft < s.workLeft
  effect : ∃ n, t = { blockStep b s with freeCtr := n }

theorem Inv.ownStep {s : State} (inv : Inv s) (turns : s.turns = []) (some_on : enabledSteps s ≠ []) :
    ∃ b t, OwnStep b s t := by
  obtain ⟨b, n, on, next⟩ := ownTurnTakesAnEnabledStep s turns some_on
  have effect := blockStep_of_enabled on
  refine ⟨b, _, on, next, ?_, ?_, n, rfl⟩
  · have counter : SameOutsideTransfer (Machine.blockStep b s) { Machine.blockStep b s with freeCtr := n } := rfl
    exact (effect ▸ inv.sameOutsideTransfer_stepEffect on).trans counter
  · exact effect ▸ workLeft_stepEffect inv on

/-! ### Segments that need no requester (R125) -/

/-- Every step keeps the record of the segment. -/
theorem SegInv.step {s t : State} (record : SegInv s) (inv : Inv s) (next : step s = .next t) : SegInv t :=
  stepKeepsSegmentRecord s t inv record next

/-- Without TX and RX data neither ready flag is ever 1, so some step of the block is enabled. -/
theorem Inv.some_on_of_no_requester {s : State} (inv : Inv s) (running : s.phase ≠ .idle) (noTx : s.seg.txp = false)
    (noRx : s.seg.rxp = false) : enabledSteps s ≠ [] := by
  intro none_on
  obtain ready | avl := inv.waits running none_on
  · simp [s.txrdy_iff, noTx] at ready
  · simp [s.rxavl_iff, noRx] at avl

/-- What is left of a segment of DUMMY_BYTEs when it has ended, in the words of its record. -/
structure DummySegmentEnds (s t : State) : Prop where
  idle : t.phase = .idle
  same : SameOutsideTransfer s t
  ss : t.ss = !s.seg.last
  mosi : mosiBytes (t.trace.drop s.hist.base) = List.replicate s.seg.len.toNat s.cfg.dummyByte
  crc : t.crc =
    if s.seg.crcen then crcFold s.hist.crc0 (misoBytes (t.trace.drop s.hist.base)) else s.hist.crc0

theorem DummySegmentEnds.of_sameOutsideTransfer {s t u : State} (same : SameOutsideTransfer s t)
    (ends : DummySegmentEnds t u) : DummySegmentEnds s u := by
  obtain ⟨idle, later, ss, mosi, crc⟩ := ends
  refine ⟨idle, same.trans later, ?_, ?_, ?_⟩
  all_goals rw [SameOutsideTransfer] at same
  · rw [ss, same]
  · rw [same] at mosi
    exact mosi
  · rw [same] at crc
    exact crc

/-- The step that ends a segment without TX data leaves what O40 says, CsHigh aside. -/
theorem DummySegmentEnds.of_last_step {s t : State} {b : BlockStep} (inv : Inv s) (record : SegInv s)
    (running : s.phase ≠ .idle) (noTx : s.seg.txp = false) (own : OwnStep b s t) (idle : t.phase = .idle) :
    DummySegmentEnds s t := by
  obtain ⟨n, effect⟩ := own.effect
  have ended : (blockStep b s).phase = .idle := by rw [effect] at idle; exact idle
  obtain ⟨-, -, -, -, mosi, crc, trace, ss⟩ := segmentEndsComplete s _ b inv record running rfl ended
  have csHigh : mosiBytes (if s.seg.last then [.csHigh s.ctrlSel (idx s.ssmask)] else []) = [] ∧
      misoBytes (if s.seg.last then [.csHigh s.ctrlSel (idx s.ssmask)] else []) = [] := by
    cases s.seg.last <;> exact ⟨rfl, rfl⟩
  have events : t.trace.drop s.hist.base =
      s.segEvents ++ if s.seg.last then [.csHigh s.ctrlSel (idx s.ssmask)] else [] := by
    rw [effect]
    change (blockStep b s).trace.drop _ = _
    rw [trace, List.drop_append_of_le_length (record.base running)]
    rfl
  refine ⟨idle, own.same, ?_, ?_, ?_⟩
  · rw [effect]; exact ss
  · rw [events, mosi_append, csHigh.1, List.append_nil, mosi, noTx]
    rfl
  · rw [events, miso_append, csHigh.2, List.append_nil, effect]
    exact crc

/-- The block's own steps end a segment without TX and RX data, each with less work left. -/
theorem dummySegment_ends {s : State} (inv : Inv s) (record : SegInv s) (turns : s.turns = [])
    (running : s.phase ≠ .idle) (noTx : s.seg.txp = false) (noRx : s.seg.rxp = false) :
    ∃ k t, k ≤ s.workLeft ∧ ReachesIn k s t ∧ DummySegmentEnds s t := by
  induction work : s.workLeft using Nat.strong_induction_on generalizing s with
  | _ work₀ ih =>
    subst work
    obtain ⟨b, t, own⟩ := inv.ownStep turns (inv.some_on_of_no_requester running noTx noRx)
    have less := own.work
    by_cases idle : t.phase = .idle
    · exact ⟨1, t, by omega, .head own.next (.refl t), .of_last_step inv record running noTx own idle⟩
    · have same := own.same
      obtain ⟨k, u, bound, run, ends⟩ := ih t.workLeft less (inv.step own.next) (record.step inv own.next)
        (same.turns.trans turns) idle (by rw [same.seg, noTx]) (by rw [same.seg, noRx]) rfl
      exact ⟨k + 1, u, by omega, .head own.next run, ends.of_sameOutsideTransfer same⟩

/-- Settles O44: the work left at a segment's start bounds the steps to its end. -/
theorem dummySegmentCompletes : Obligations.DummySegmentCompletes := by
  intro s inv record turns run noTx noRx
  have running : s.phase ≠ .idle := by simp [run]
  obtain ⟨k, t, bound, reached, idle, same, ss, mosi, crc⟩ := dummySegment_ends inv record turns running noTx noRx
  have work := inv.workLeft_le running
  exact ⟨k, t, by omega, reached, idle, same.seg, same.marks, same.reads, ss, mosi, crc⟩

end Sys2Proof.Machine
end

section
/-! PROOF. The loop of the SEG driver (R195): what each turn of it keeps, and that it ends with the segment. -/

namespace Sys2Proof.Machine

/-! ### The slave's answers (R9) -/

/-- Of the answers named `before`, the slave gave `got`, as far as the names reach, and `after` are left. -/
def Answered (before got after : List Byte) : Prop :=
  ∀ answers later, before = answers ++ later → answers.length = got.length → got = answers ∧ after = later

theorem Answered.nil (miso : List Byte) : Answered miso [] miso := by
  intro answers later named none
  obtain rfl := List.length_eq_zero_iff.mp none
  exact ⟨rfl, named⟩

/-- The next answer is the first that is named, and anything where none is. -/
theorem Answered.next (miso : List Byte) (free : Byte) : Answered miso [miso.headD free] miso.tail := by
  intro answers later named one
  obtain ⟨x, rfl⟩ := List.length_eq_one_iff.mp one
  rw [named]
  exact ⟨rfl, rfl⟩

theorem Answered.append {first second third got more : List Byte} (one : Answered first got second)
    (two : Answered second more third) : Answered first (got ++ more) third := by
  intro answers later named both
  rw [List.length_append] at both
  have split : (answers.take got.length).length = got.length := by rw [List.length_take]; omega
  have rest : (answers.drop got.length).length = more.length := by rw [List.length_drop]; omega
  have cut := List.take_append_drop got.length answers
  obtain ⟨gotIs, left⟩ := one (answers.take got.length) (answers.drop got.length ++ later)
    (by rw [← List.append_assoc, cut, named]) split
  obtain ⟨moreIs, left⟩ := two _ later left rest
  exact ⟨by rw [← gotIs, ← moreIs] at cut; exact cut, left⟩

/-! ### The bus from one state to another -/

/-- From `s` to `t` the events `es` happen, and the slave answers in them. -/
structure Clocks (s t : State) (es : List BusEvent) : Prop where
  trace : t.trace = s.trace ++ es
  answered : Answered s.miso (misoBytes es) t.miso

theorem Clocks.of_eq {s t : State} (trace : t.trace = s.trace) (miso : t.miso = s.miso) : Clocks s t [] :=
  ⟨by rw [trace, List.append_nil], miso ▸ .nil _⟩

theorem Clocks.trans {s t u : State} {es fs : List BusEvent} (first : Clocks s t es) (second : Clocks t u fs) :
    Clocks s u (es ++ fs) :=
  ⟨by rw [second.trace, first.trace, List.append_assoc], miso_append es fs ▸ first.answered.append second.answered⟩

/-- A step of the block exchanges at most one byte. -/
theorem Clocks.blockStep (b : BlockStep) (s : State) : ∃ es, Clocks s (blockStep b s) es := by
  by_cases on : enabled b s = true
  case neg => exact ⟨[], by rw [blockStep_of_not_enabled on]; exact .of_eq rfl rfl⟩
  rw [blockStep_of_enabled on]
  cases b
  case discard =>
    obtain ⟨-, -, nonempty⟩ := (enabled_discard_iff s).mp on
    obtain ⟨b, rest, oldest⟩ := List.exists_cons_of_ne_nil nonempty
    rw [stepEffect, discardByte_of_cons oldest]
    exact ⟨[], .of_eq rfl rfl⟩
  case leaveTail =>
    rw [stepEffect, leaveTail]
    split
    · exact ⟨[_], rfl, .nil _⟩
    · exact ⟨[], .of_eq rfl rfl⟩
  case shiftStart =>
    obtain ⟨k, effect, -, -⟩ := startByte_eq_setSel s
    rw [stepEffect, effect]
    exact ⟨[], .of_eq rfl rfl⟩
  case shiftEnd => exact ⟨[_], rfl, .next _ _⟩
  case dummyBurst | endRun => exact ⟨[], .of_eq rfl rfl⟩

/-- Events that are all exchanges on one line, as the bytes exchanged. -/
theorem exists_exchanges {c : BitVec 1} {i : Nat} {es : List BusEvent}
    (bytes : ∀ e ∈ es, ∃ mosi miso, e = .byte c i mosi miso) :
    ∃ xs : List (Byte × Byte), es = xs.map fun x => .byte c i x.1 x.2 := by
  induction es with
  | nil => exact ⟨[], rfl⟩
  | cons e es ih =>
    rw [List.forall_mem_cons] at bytes
    obtain ⟨⟨mosi, miso, rfl⟩, others⟩ := bytes
    obtain ⟨xs, rfl⟩ := ih others
    exact ⟨(mosi, miso) :: xs, rfl⟩

theorem mosiBytes_exchanges (c : BitVec 1) (i : Nat) (xs : List (Byte × Byte)) :
    mosiBytes (xs.map fun x => .byte c i x.1 x.2) = xs.map Prod.fst := by
  simp [mosiBytes, List.filterMap_map, List.filterMap_eq_map']

theorem misoBytes_exchanges (c : BitVec 1) (i : Nat) (xs : List (Byte × Byte)) :
    misoBytes (xs.map fun x => .byte c i x.1 x.2) = xs.map Prod.snd := by
  simp [misoBytes, List.filterMap_map, List.filterMap_eq_map']

/-! ### What the loop keeps -/

/-- `t` differs from `s` only in the transfer, and in what the loop itself reads and queues. -/
def SameOutsideLoop (s t : State) : Prop :=
  t = { s with
    ss := t.ss, phase := t.phase, txCount := t.txCount, rxCount := t.rxCount, core0 := t.core0, core1 := t.core1
    crc := t.crc, trace := t.trace, reads := t.reads, miso := t.miso, freeCtr := t.freeCtr, client := t.client
    rxbuf := t.rxbuf, hist := { s.hist with fed := t.hist.fed, taken := t.hist.taken, bursts := t.hist.bursts } }

theorem SameOutsideLoop.trans {s t u : State} (first : SameOutsideLoop s t) (second : SameOutsideLoop t u) :
    SameOutsideLoop s u := by
  rw [SameOutsideLoop] at *
  rw [second, first]

theorem SameOutsideTransfer.sameOutsideLoop {s t : State} (same : SameOutsideTransfer s t) : SameOutsideLoop s t := by
  rw [same]
  rfl

/-- What the loop finds when it begins: the segment of the flags `f` and the length `n`, just accepted. -/
structure SegStart (f : SegFlags) (n : Word) (s : State) : Prop where
  seg : s.seg = ⟨f.tx, f.rx, f.last, f.crc, n⟩
  turns : s.turns = []
  base : s.hist.base = s.trace.length

/-- A state `s` of the loop that began at `start`, with the segment running: the receive buffer is what was taken. -/
structure SegRun (start : State) (f : SegFlags) (s : State) : Prop where
  inv : Inv s
  record : SegInv s
  running : s.phase ≠ .idle
  same : SameOutsideLoop start s
  clocks : ∃ es, Clocks start s es
  buf : f.rx = true → s.rxbuf = s.hist.taken

section
variable {start s t : State} {f : SegFlags} {n : Word}

theorem SegRun.seg (run : SegRun start f s) (begun : SegStart f n start) : s.seg = ⟨f.tx, f.rx, f.last, f.crc, n⟩ := by
  rw [run.same]
  exact begun.seg

theorem SegRun.turns (run : SegRun start f s) (begun : SegStart f n start) : s.turns = [] := by
  rw [run.same]
  exact begun.turns

/-- The events since the loop began are those of the segment. -/
theorem SegRun.trace (run : SegRun start f s) (begun : SegStart f n start) : s.trace = start.trace ++ s.segEvents := by
  obtain ⟨es, clocks⟩ := run.clocks
  have base : s.hist.base = start.trace.length := by
    rw [run.same]
    exact begun.base
  rw [State.segEvents, base, clocks.trace, List.drop_left]

theorem SegRun.answered (run : SegRun start f s) (begun : SegStart f n start) :
    Answered start.miso (misoBytes s.segEvents) s.miso := by
  obtain ⟨es, clocks⟩ := run.clocks
  have events : s.segEvents = es := List.append_cancel_left ((run.trace begun).symm.trans clocks.trace)
  exact events ▸ clocks.answered

/-! ### The block's steps within the loop -/

/-- With RXP = 1 the block takes no byte itself. -/
theorem blockStep_taken_of_rxp (b : BlockStep) (rxp : s.seg.rxp = true) :
    (blockStep b s).hist.taken = s.hist.taken := by
  by_cases on : enabled b s = true
  case neg => rw [blockStep_of_not_enabled on]
  rw [blockStep_of_enabled on]
  cases b
  case discard => simp [enabled_discard_iff, rxp] at on
  case leaveTail =>
    rw [stepEffect, leaveTail]
    split <;> rfl
  case shiftStart =>
    obtain ⟨k, effect, -, -⟩ := startByte_eq_setSel s
    rw [stepEffect, effect]
    rfl
  case dummyBurst | endRun | shiftEnd => rfl

theorem OwnStep.clocks {b : BlockStep} (own : OwnStep b s t) : ∃ es, Clocks s t es := by
  obtain ⟨es, trace, answered⟩ := Clocks.blockStep b s
  obtain ⟨k, effect⟩ := own.effect
  rw [effect]
  exact ⟨es, trace, answered⟩

theorem OwnStep.taken {b : BlockStep} (own : OwnStep b s t) (rxp : s.seg.rxp = true) : t.hist.taken = s.hist.taken := by
  obtain ⟨k, effect⟩ := own.effect
  rw [effect]
  exact blockStep_taken_of_rxp b rxp

theorem OwnStep.rxavl {b : BlockStep} (own : OwnStep b s t) (inv : Inv s) (avl : s.rxavl = true) : t.rxavl = true := by
  obtain ⟨k, effect⟩ := own.effect
  rw [effect]
  exact inv.blockStep_rxavl b avl

theorem SegRun.ownStep {b : BlockStep} (run : SegRun start f s) (begun : SegStart f n start) (own : OwnStep b s t)
    (running : t.phase ≠ .idle) : SegRun start f t := by
  obtain ⟨es, before⟩ := run.clocks
  obtain ⟨fs, after⟩ := own.clocks
  refine ⟨run.inv.step own.next, run.record.step run.inv own.next, running, run.same.trans own.same.sameOutsideLoop,
    ⟨_, before.trans after⟩, fun rx => ?_⟩
  have rxp : s.seg.rxp = true := by rw [run.seg begun]; exact rx
  rw [own.taken rxp, ← run.buf rx, own.same]

/-! ### The requester's turns within the loop -/

/-- Where nothing of the block is enabled, the requester's next micro-statement runs. -/
theorem SegRun.step_eq {op : ClientOp} {ops : List ClientOp} (run : SegRun start f s) (begun : SegStart f n start)
    (none_on : enabledSteps s = []) (client : s.client = op :: ops) :
    step s = clientStep op { s with client := ops } :=
  (step_eq_requesterTurn (run.turns begun) none_on).trans (requesterTurn_of_client client)

/-- The requester's access keeps what the loop keeps, if it touches nothing else and the bus stands still. -/
theorem SegRun.access (run : SegRun start f s) (next : step s = .next t) (same : SameOutsideLoop s t)
    (phase : t.phase = s.phase) (trace : t.trace = s.trace) (miso : t.miso = s.miso)
    (buf : s.rxbuf = s.hist.taken → t.rxbuf = t.hist.taken) : SegRun start f t := by
  obtain ⟨es, clocks⟩ := run.clocks
  exact ⟨run.inv.step next, run.record.step run.inv next, by rw [phase]; exact run.running, run.same.trans same,
    ⟨_, clocks.trans (.of_eq trace miso)⟩, fun rx => buf (run.buf rx)⟩

/-- `RD RXDATA -> rxbuf[kr]` with RXAVL = 1 moves the oldest byte to the receive buffer. -/
theorem SegRun.take {ops : List ClientOp} (run : SegRun start f s) (begun : SegStart f n start)
    (none_on : enabledSteps s = []) (client : s.client = .segTake :: ops) (avl : s.rxavl = true) :
    ∃ t, step s = .next t ∧ SegRun start f t ∧ t.client = ops ∧ t.hist.fed = s.hist.fed ∧ t.workLeft < s.workLeft := by
  obtain ⟨isRun, -, nonempty⟩ := s.rxavl_iff.mp avl
  obtain ⟨b, rest, oldest⟩ := List.exists_cons_of_ne_nil nonempty
  have low : lowByte (b.zeroExtend 32) = b := BitVec.setWidth_setWidth_of_le b (by decide)
  have next : step s = .next { returnRead (b.zeroExtend 32) (takeByte b rest { s with client := ops }) with
      rxbuf := s.rxbuf ++ [b] } := by
    rw [run.step_eq begun none_on client, clientStep, runRequest_readRxdata,
      rxdataRead_of_available (s := { s with client := ops }) b rest avl oldest, andThen, returnRead_lastRead, low]
    rfl
  refine ⟨_, next, run.access next rfl rfl rfl rfl fun buf => ?_, rfl, rfl, ?_⟩
  · change s.rxbuf ++ [b] = s.hist.taken ++ [b]
    rw [buf]
  · have work : (takeByte b rest s).workLeft < s.workLeft := by
      rw [State.workLeft, takeByte_sel, State.workLeft, oldest, List.length_cons]
      exact Nat.add_lt_add_right (Nat.add_lt_add_left (Nat.lt_succ_self _) _) _
    exact work

/-- `WR TXDATA` with TXRDY = 1 hands the block the next byte. -/
theorem SegRun.write {b : Byte} {ops : List ClientOp} (run : SegRun start f s) (begun : SegStart f n start)
    (none_on : enabledSteps s = []) (client : s.client = .write 0x0C (b.zeroExtend 32) :: ops)
    (ready : s.txrdy = true) :
    ∃ t, step s = .next t ∧ SegRun start f t ∧ t.client = ops ∧ t.hist.fed = s.hist.fed ++ [b] ∧
      t.rxavl = s.rxavl ∧ t.workLeft < s.workLeft := by
  obtain ⟨isRun, -, left, -⟩ := s.txrdy_iff.mp ready
  have low : lowByte (b.zeroExtend 32) = b := BitVec.setWidth_setWidth_of_le b (by decide)
  have next : step s = .next (txdataWrite (b.zeroExtend 32) { s with client := ops }) := by
    rw [run.step_eq begun none_on client, clientStep, runRequest_writeTxdata]
  have effect := txdataWrite_of_ready (b.zeroExtend 32) { s with client := ops } ready
  have avl := txdataWrite_rxavl (b.zeroExtend 32) { s with client := ops }
  rw [low] at effect
  rw [effect] at next avl
  refine ⟨_, next, run.access next rfl rfl rfl rfl id, rfl, rfl, avl, ?_⟩
  have after : State.sel (s.setSel (s.sel.pushTx b)) = s.sel.pushTx b := State.setSel_sel s _
  have work : ({ s.setSel (s.sel.pushTx b) with txCount := s.txCount + 1 } : State).workLeft < s.workLeft := by
    have sel : State.sel { s.setSel (s.sel.pushTx b) with txCount := s.txCount + 1 } = s.sel.pushTx b := after
    rw [State.workLeft, sel, State.workLeft]
    change 4 * (s.seg.len.toNat - (s.txCount + 1)) + 3 * ((s.sel.txf ++ [b]).length + s.sel.dummyPending) +
      2 * s.sel.inShifter + s.sel.rxf.length + s.phase.left < _
    rw [List.length_append, List.length_singleton]
    omega
  exact work

/-- `RD STATUS` with the segment running: the loop goes on with the accesses that the ready flags and `f` allow. -/
theorem SegRun.status {unsent : List Byte} {rest : List ClientOp} (run : SegRun start f s) (begun : SegStart f n start)
    (none_on : enabledSteps s = []) (client : s.client = .segLoop f unsent :: rest) :
    ∃ t, step s = .next t ∧ SegRun start f t ∧ t.client = segPass f unsent s.statusWord ++ rest ∧
      t.hist.fed = s.hist.fed ∧ t.txrdy = s.txrdy ∧ t.rxavl = s.rxavl ∧ enabledSteps t = [] ∧
      t.workLeft = s.workLeft := by
  have next : step s =
      .next (thenDo (segPass f unsent s.statusWord) (returnRead s.statusWord { s with client := rest })) := by
    rw [run.step_eq begun none_on client, clientStep, runRequest_readStatus, andThen, returnRead_lastRead]
    rfl
  exact ⟨_, next, run.access next rfl rfl rfl rfl id, rfl, rfl, rfl, rfl, none_on, rfl⟩

/-- Where the loop stands: at its head, or, where `take` is set, with a byte still to move to the buffer. -/
def loopClient (f : SegFlags) (unsent : List Byte) (rest : List ClientOp) (take : Bool) : List ClientOp :=
  (if take then [.segTake] else []) ++ .segLoop f unsent :: rest

/-- BUSY, TXRDY and RXAVL as the loop reads them. -/
theorem statusWord_of_running (running : s.phase ≠ .idle) :
    s.statusWord.getLsbD 0 = true ∧ s.statusWord.getLsbD 2 = s.txrdy ∧ s.statusWord.getLsbD 3 = s.rxavl :=
  ⟨(s.statusWord_getLsbD 0).trans (decide_eq_true running), s.statusWord_getLsbD 2, s.statusWord_getLsbD 3⟩

/-- With TXRDY = 1 the loop sends its next byte first (R195). -/
theorem segPass_of_ready {b : Byte} {more : List Byte} (rest : List ClientOp) (running : s.phase ≠ .idle)
    (tx : f.tx = true) (ready : s.txrdy = true) :
    segPass f (b :: more) s.statusWord ++ rest =
      .write 0x0C (b.zeroExtend 32) :: loopClient f more rest (f.rx && s.rxavl) := by
  obtain ⟨busyBit, readyBit, avlBit⟩ := statusWord_of_running running
  rw [segPass, busyBit, readyBit, avlBit, tx, ready, loopClient]
  cases f.rx && s.rxavl <;> rfl

/-- With TXRDY = 0 the loop sends nothing (R195). -/
theorem segPass_of_not_ready (unsent : List Byte) (rest : List ClientOp) (running : s.phase ≠ .idle)
    (ready : s.txrdy = false) :
    segPass f unsent s.statusWord ++ rest = loopClient f unsent rest (f.rx && s.rxavl) := by
  obtain ⟨busyBit, readyBit, avlBit⟩ := statusWord_of_running running
  rw [segPass, busyBit, readyBit, avlBit, ready, Bool.and_false, loopClient]
  cases f.rx && s.rxavl <;> rfl

/-- TXRDY = 1 says that a byte is left to send (R27, R195). -/
theorem SegRun.unsent_ne_nil {tx unsent : List Byte} (run : SegRun start f s) (begun : SegStart f n start)
    (ready : s.txrdy = true) (length : f.tx = true → tx.length = n.toNat)
    (sent : f.tx = true → s.hist.fed ++ unsent = tx) : f.tx = true ∧ unsent ≠ [] := by
  obtain ⟨-, txp, left, -⟩ := s.txrdy_iff.mp ready
  have counted := (run.record.counted run.running).2 txp
  rw [run.seg begun] at txp left
  refine ⟨txp, fun none => ?_⟩
  have all := sent txp
  rw [none, List.append_nil] at all
  have := length txp
  rw [← all, counted] at this
  exact absurd left (by simp [this])

/-- One turn of the loop, with none of the block's steps enabled, moves a byte. -/
theorem SegRun.turn {tx unsent : List Byte} {rest : List ClientOp} {take : Bool} (run : SegRun start f s)
    (begun : SegStart f n start) (none_on : enabledSteps s = []) (client : s.client = loopClient f unsent rest take)
    (avl : take = true → s.rxavl = true) (length : f.tx = true → tx.length = n.toNat)
    (sent : f.tx = true → s.hist.fed ++ unsent = tx) :
    ∃ t unsent take, Reaches s t ∧ SegRun start f t ∧ t.client = loopClient f unsent rest take ∧
      (take = true → t.rxavl = true) ∧ (f.tx = true → t.hist.fed ++ unsent = tx) ∧ t.workLeft < s.workLeft := by
  cases take
  case true =>
    obtain ⟨t, next, after, clientAfter, fed, less⟩ := run.take begun none_on client (avl rfl)
    exact ⟨t, unsent, false, .head next (.refl t), after, clientAfter, Bool.noConfusion, fun tx => fed ▸ sent tx, less⟩
  case false =>
    obtain ⟨t, next, after, clientAfter, fed, readyAfter, avlAfter, noneAfter, same⟩ := run.status begun none_on client
    by_cases ready : s.txrdy = true
    case pos =>
      obtain ⟨isTx, left⟩ := run.unsent_ne_nil begun ready length sent
      obtain ⟨b, more, rfl⟩ := List.exists_cons_of_ne_nil left
      rw [segPass_of_ready rest run.running isTx ready] at clientAfter
      obtain ⟨u, nextWrite, afterWrite, clientWrite, fedWrite, avlWrite, less⟩ :=
        after.write begun noneAfter clientAfter (readyAfter.trans ready)
      refine ⟨u, more, f.rx && s.rxavl, .head next (.head nextWrite (.refl u)), afterWrite, clientWrite,
        fun isTake => ?_, fun isTx => ?_, same ▸ less⟩
      · rw [avlWrite, avlAfter]
        exact (Bool.and_eq_true_iff.mp isTake).2
      · rw [fedWrite, fed, List.append_assoc]
        exact sent isTx
    case neg =>
      have isAvl : s.rxavl = true := (run.inv.waits run.running none_on).resolve_left ready
      have rx : f.rx = true := by
        have rxp := (s.rxavl_iff.mp isAvl).2.1
        rwa [run.seg begun] at rxp
      rw [Bool.not_eq_true] at ready
      rw [segPass_of_not_ready unsent rest run.running ready, isAvl, rx] at clientAfter
      obtain ⟨u, nextTake, afterTake, clientTake, fedTake, less⟩ :=
        after.take begun noneAfter clientAfter (avlAfter.trans isAvl)
      exact ⟨u, unsent, false, .head next (.head nextTake (.refl u)), afterTake, clientTake, Bool.noConfusion,
        fun isTx => by rw [fedTake, fed]; exact sent isTx, same ▸ less⟩

/-! ### The end of the loop -/

/-- What the loop that began at `start` leaves when its segment has ended: the exchanges `xs` of the segment, CsHigh
where LAST = 1, and the loop's head still to run. -/
structure SegEnds (start : State) (f : SegFlags) (n : Word) (tx : List Byte) (t : State) (xs : List (Byte × Byte)) :
    Prop where
  inv : Inv t
  idle : t.phase = .idle
  same : SameOutsideLoop start t
  ss : t.ss = !f.last
  length : xs.length = n.toNat
  trace : t.trace = start.trace ++ xs.map (fun x => .byte start.ctrlSel (idx start.ssmask) x.1 x.2) ++
    if f.last then [.csHigh start.ctrlSel (idx start.ssmask)] else []
  mosi : xs.map Prod.fst = if f.tx then tx else List.replicate n.toNat start.cfg.dummyByte
  buf : f.rx = true → t.rxbuf = xs.map Prod.snd
  crc : t.crc = if f.crc then crcFold start.hist.crc0 (xs.map Prod.snd) else start.hist.crc0
  answered : Answered start.miso (xs.map Prod.snd) t.miso

/-- The step of the block that ends the segment ends the loop's waiting. -/
theorem SegRun.ends {b : BlockStep} {tx unsent : List Byte} (run : SegRun start f s) (begun : SegStart f n start)
    (own : OwnStep b s t) (ended : t.phase = .idle) (length : f.tx = true → tx.length = n.toNat)
    (sent : f.tx = true → s.hist.fed ++ unsent = tx) : ∃ xs, SegEnds start f n tx t xs := by
  obtain ⟨k, effect⟩ := own.effect
  have endedThere : (Machine.blockStep b s).phase = .idle := by rw [effect] at ended; exact ended
  obtain ⟨events, mosiLength, misoLength, taken, mosi, crc, trace, ss⟩ :=
    segmentEndsComplete s _ b run.inv run.record run.running rfl endedThere
  have seg := run.seg begun
  have ctrlSel : s.ctrlSel = start.ctrlSel := by rw [run.same]
  have mask : s.ssmask = start.ssmask := by rw [run.same]
  have cfg : s.cfg = start.cfg := by rw [run.same]
  have crc0 : s.hist.crc0 = start.hist.crc0 := by rw [run.same]
  rw [ctrlSel, mask] at events trace
  obtain ⟨xs, isXs⟩ := exists_exchanges events
  have bytes : mosiBytes s.segEvents = xs.map Prod.fst := isXs ▸ mosiBytes_exchanges _ _ xs
  have answers : misoBytes s.segEvents = xs.map Prod.snd := isXs ▸ misoBytes_exchanges _ _ xs
  have endTrace := run.trace begun
  have answered := run.answered begun
  rw [bytes, List.length_map] at mosiLength
  rw [seg] at mosiLength mosi crc trace ss
  rw [bytes, cfg] at mosi
  rw [answers, crc0] at crc
  rw [answers] at answered taken
  refine ⟨xs, run.inv.step own.next, ended, run.same.trans own.same.sameOutsideLoop, ?_, mosiLength, ?_, ?_,
    fun rx => ?_, ?_, ?_⟩
  · rw [effect]; exact ss
  · rw [effect]
    change (Machine.blockStep b s).trace = _
    rw [trace, endTrace, isXs]
  · rw [mosi]
    by_cases isTx : f.tx = true
    · have all := sent isTx
      have fedLength : s.hist.fed.length = n.toNat := by
        have := congrArg List.length mosi
        rwa [if_pos isTx, List.length_map, mosiLength, eq_comm] at this
      have none : unsent = [] := by
        have := congrArg List.length all
        rw [List.length_append, length isTx, fedLength] at this
        exact List.length_eq_zero_iff.mp (by omega)
      rw [if_pos isTx, if_pos isTx, ← all, none, List.append_nil]
    · rw [if_neg isTx, if_neg isTx]
  · have buf : t.rxbuf = s.rxbuf := by rw [own.same]
    rw [buf, run.buf rx, taken]
  · rw [effect]; exact crc
  · obtain ⟨es, clocks⟩ := own.clocks
    have lastEvents : es = if f.last then [.csHigh start.ctrlSel (idx start.ssmask)] else [] := by
      refine List.append_cancel_left (as := s.trace) ?_
      rw [← clocks.trace, effect]
      exact trace
    have silent : misoBytes es = [] := by
      rw [lastEvents]
      cases f.last <;> rfl
    have both := answered.append clocks.answered
    rwa [silent, List.append_nil] at both

/-- The loop runs to the segment's end: while it runs, the block or the requester moves a byte on. -/
theorem SegRun.reaches_end {tx unsent : List Byte} {rest : List ClientOp} {take : Bool} (run : SegRun start f s)
    (begun : SegStart f n start) (client : s.client = loopClient f unsent rest take)
    (avl : take = true → s.rxavl = true) (length : f.tx = true → tx.length = n.toNat)
    (sent : f.tx = true → s.hist.fed ++ unsent = tx) :
    ∃ t xs unsent, Reaches s t ∧ SegEnds start f n tx t xs ∧ t.client = .segLoop f unsent :: rest := by
  induction work : s.workLeft using Nat.strong_induction_on generalizing s unsent take with
  | _ work₀ ih =>
    subst work
    by_cases none_on : enabledSteps s = []
    case pos =>
      obtain ⟨t, unsent, take, reached, after, client, avl, sent, less⟩ := run.turn begun none_on client avl length sent
      obtain ⟨u, xs, unsent, later, ends, clientEnd⟩ := ih _ less after client avl sent rfl
      exact ⟨u, xs, unsent, reached.trans later, ends, clientEnd⟩
    case neg =>
      obtain ⟨b, t, own⟩ := run.inv.ownStep (run.turns begun) none_on
      have clientAfter : t.client = loopClient f unsent rest take := by rw [← client, own.same]
      by_cases ended : t.phase = .idle
      case pos =>
        obtain ⟨xs, ends⟩ := run.ends begun own ended length sent
        have noTake : take = false := by
          obtain ⟨k, effect⟩ := own.effect
          have endedThere : (Machine.blockStep b s).phase = .idle := by rw [effect] at ended; exact ended
          obtain ⟨-, on⟩ := leaveTail_of_ends run.running endedThere
          by_contra isTake
          have isRun := (s.rxavl_iff.mp (avl (by simpa using isTake))).1
          simp [enabled_leaveTail_iff, isRun] at on
        rw [noTake] at clientAfter
        exact ⟨t, xs, unsent, .head own.next (.refl t), ends, clientAfter⟩
      case neg =>
        have fed : t.hist.fed = s.hist.fed := by rw [own.same]
        obtain ⟨u, xs, unsent, later, ends, clientEnd⟩ := ih _ own.work (run.ownStep begun own ended) clientAfter
          (fun isTake => own.rxavl run.inv (avl isTake)) (fun isTx => by rw [fed]; exact sent isTx) rfl
        exact ⟨u, xs, unsent, .head own.next later, ends, clientEnd⟩

end

end Sys2Proof.Machine
end

section
/-! PROOF. The SEG driver from its statement to its end (R195, R118, R125): obligation O45. -/

namespace Sys2Proof.Machine

/-! ### A requester at work on an idle block -/

/-- The block is idle on a core that is initialised, and no turn is named. -/
structure Ready (s : State) : Prop where
  inv : Inv s
  turns : s.turns = []
  idle : s.phase = .idle
  init : s.initDone s.ctrlSel = true

/-- `t` differs from `s` only in LEN, the CRC, and what belongs to the requester but for its program. -/
def SameBus (s t : State) : Prop :=
  t = { s with
    len := t.len, crc := t.crc, reads := t.reads, freeCtr := t.freeCtr, rpc := t.rpc, client := t.client
    rxbuf := t.rxbuf }

theorem Ready.of_sameBus {s t : State} (ready : Ready s) (same : SameBus s t) : Ready t := by
  rw [same]
  exact ⟨ready.inv.of_eq rfl rfl rfl rfl rfl rfl rfl rfl rfl rfl, ready.turns, ready.idle, ready.init⟩

theorem Ready.step_eq_requesterTurn {s : State} (ready : Ready s) : step s = requesterTurn s :=
  Machine.step_eq_requesterTurn ready.turns (ready.inv.enabledSteps_of_idle ready.idle)

/-- On an idle block the requester's next micro-statement runs. -/
theorem Ready.step_eq {s : State} {op : ClientOp} {ops : List ClientOp} (ready : Ready s)
    (client : s.client = op :: ops) :
    step s = clientStep op { s with client := ops } :=
  ready.step_eq_requesterTurn.trans (requesterTurn_of_client client)

/-- In IDLE a STATUS read shows BUSY = 0. -/
theorem statusWord_of_idle {s : State} (idle : s.phase = .idle) : s.statusWord.getLsbD 0 = false := by
  rw [State.statusWord_getLsbD]
  exact decide_eq_false (not_not_intro idle)

theorem statusWord_and_one_of_idle {s : State} (idle : s.phase = .idle) : s.statusWord &&& 0x1#32 = 0x0#32 := by
  refine BitVec.eq_of_getLsbD_eq fun i _ => ?_
  rw [BitVec.getLsbD_and, BitVec.getLsbD_zero]
  by_cases bit0 : i = 0
  · rw [bit0, statusWord_of_idle idle, Bool.false_and]
  · simp [BitVec.getLsbD_one, bit0]

/-- The XFER word written to CMD in IDLE is accepted (R94, R101). -/
theorem commandWrite_xferWord {s : State} (idle : s.phase = .idle) (init : s.initDone s.ctrlSel = true)
    (txp rxp last crcen : Bool) :
    commandWrite (xferWord txp rxp last crcen) s = acceptSegment txp rxp last crcen s := by
  have decoded : decodeCommand (xferWord txp rxp last crcen) = .ok (.xfer txp rxp last crcen) :=
    Laws.RoundTrip.xfer txp rxp last crcen 0#8 rfl
  rw [commandWrite, decoded]
  exact (issueCommand_of_idle idle _ _).trans (if_pos init)

/-! ### From the SEG statement to the segment's acceptance -/

section
variable {s : State} (ready : Ready s) {f : SegFlags} {n : Word} {tx : List Byte} {ops : List ClientOp}
include ready

theorem Ready.seg_next (client : s.client = .seg f n tx :: ops) :
    step s = .next { s with
      client := .poll 0x08 0x1#32 0x0#32 :: .write 0x04 n :: .write 0x00 f.word :: .segLoop f (tx.take n.toNat) :: ops
      rxbuf := if f.rx then [] else s.rxbuf } := by
  rw [ready.step_eq client, clientStep]
  rfl

/-- The poll of BUSY passes at once. -/
theorem Ready.pollBusy_next (client : s.client = .poll 0x08 0x1#32 0x0#32 :: ops) :
    step s = .next { s with client := ops, reads := s.reads ++ [s.statusWord] } := by
  rw [ready.step_eq client, clientStep, runRequest_readStatus, andThen]
  refine congrArg Host.Outcome.next (if_pos ?_)
  rw [returnRead_lastRead]
  exact statusWord_and_one_of_idle (s := { s with client := ops }) ready.idle

theorem Ready.writeLen_next (client : s.client = .write 0x04 n :: ops) :
    step s = .next { s with client := ops, len := n } := by
  rw [ready.step_eq client, clientStep, runRequest_writeLen]
  rfl

theorem Ready.writeXfer_next (client : s.client = .write 0x00 f.word :: ops) :
    step s = .next (acceptSegment f.tx f.rx f.last f.crc { s with client := ops }) := by
  rw [ready.step_eq client, clientStep, runRequest_writeCmd, SegFlags.word,
    commandWrite_xferWord (s := { s with client := ops }) ready.idle ready.init]

end

/-- The state in which SEG has polled BUSY, written LEN and reached CMD with its XFER word (R195). -/
def segRequest (f : SegFlags) (n : Word) (tx : List Byte) (rest : List ClientOp) (s : State) : State :=
  { s with
    len := n, reads := s.reads ++ [s.statusWord], client := .segLoop f (tx.take n.toNat) :: rest
    rxbuf := if f.rx then [] else s.rxbuf }

/-- The state in which SEG's loop begins, its segment accepted. -/
def segAccepted (f : SegFlags) (n : Word) (tx : List Byte) (rest : List ClientOp) (s : State) : State :=
  acceptSegment f.tx f.rx f.last f.crc (segRequest f n tx rest s)

/-- What a run of the requester on an idle block leaves as it is. -/
structure SameSetup (s t : State) : Prop where
  err : t.err = s.err
  marks : t.marks = s.marks
  ctrlSel : t.ctrlSel = s.ctrlSel
  ssmask : t.ssmask = s.ssmask
  cfg : t.cfg = s.cfg
  initDone0 : t.initDone0 = s.initDone0
  initDone1 : t.initDone1 = s.initDone1
  turns : t.turns = s.turns
  prog : t.prog = s.prog
  rpc : t.rpc = s.rpc

theorem SameSetup.refl (s : State) : SameSetup s s := ⟨rfl, rfl, rfl, rfl, rfl, rfl, rfl, rfl, rfl, rfl⟩

theorem SameSetup.trans {s t u : State} (first : SameSetup s t) (second : SameSetup t u) : SameSetup s u :=
  ⟨second.err.trans first.err, second.marks.trans first.marks, second.ctrlSel.trans first.ctrlSel,
    second.ssmask.trans first.ssmask, second.cfg.trans first.cfg, second.initDone0.trans first.initDone0,
    second.initDone1.trans first.initDone1, second.turns.trans first.turns, second.prog.trans first.prog,
    second.rpc.trans first.rpc⟩

theorem SameOutsideLoop.sameSetup {s t : State} (same : SameOutsideLoop s t) : SameSetup s t := by
  rw [same]
  exact ⟨rfl, rfl, rfl, rfl, rfl, rfl, rfl, rfl, rfl, rfl⟩

theorem SameBus.sameSetup {s t : State} (same : SameBus s t) (rpc : t.rpc = s.rpc) : SameSetup s t := by
  refine ⟨?_, ?_, ?_, ?_, ?_, ?_, ?_, ?_, ?_, rpc⟩
  all_goals rw [same]

/-- Asserting chip-select changes the selected core's AUX bit, SS and the trace alone (R103). -/
theorem assertCs_sameSetup (s : State) : SameSetup s (assertCs s) := by
  rw [assertCs]
  split <;> exact ⟨rfl, rfl, rfl, rfl, rfl, rfl, rfl, rfl, rfl, rfl⟩

/-- The block is ready again where it is idle with the same setup. -/
theorem Ready.of_sameSetup {s t : State} (ready : Ready s) (same : SameSetup s t) (inv : Inv t)
    (idle : t.phase = .idle) :
    Ready t := by
  refine ⟨inv, same.turns.trans ready.turns, idle, ?_⟩
  have init := ready.init
  rwa [State.initDone, same.ctrlSel, same.initDone0, same.initDone1]

section
variable {s t : State} {f : SegFlags} {n : Word} {tx : List Byte} {rest : List ClientOp}

theorem Ready.reaches_segAccepted (ready : Ready s) (client : s.client = .seg f n tx :: rest) :
    Reaches s (segAccepted f n tx rest s) := by
  refine .head (ready.seg_next client) (.head (Ready.pollBusy_next (ready.of_sameBus ?_) rfl)
    (.head (Ready.writeLen_next (ready.of_sameBus ?_) rfl)
      (.head (Ready.writeXfer_next (ready.of_sameBus ?_) rfl) (.refl _))))
  all_goals exact rfl

section
variable (f n tx rest)

theorem segAccepted_start (ready : Ready s) : SegStart f n (segAccepted f n tx rest s) :=
  ⟨rfl, (assertCs_sameSetup _).turns.trans ready.turns, rfl⟩

theorem segAccepted_sameSetup (s : State) : SameSetup s (segAccepted f n tx rest s) := by
  obtain ⟨err, marks, ctrlSel, ssmask, cfg, initDone0, initDone1, turns, prog, rpc⟩ :=
    assertCs_sameSetup (segRequest f n tx rest s)
  exact ⟨err, marks, ctrlSel, ssmask, cfg, initDone0, initDone1, turns, prog, rpc⟩

theorem segAccepted_trace (s : State) :
    (segAccepted f n tx rest s).trace = s.trace ++ if s.ss then [] else [.csLow s.ctrlSel (idx s.ssmask)] :=
  acceptSegment_trace ..

end

/-- The rest of the state, which asserting chip-select leaves. -/
theorem assertCs_requester (s : State) :
    (assertCs s).client = s.client ∧ (assertCs s).rxbuf = s.rxbuf ∧ (assertCs s).miso = s.miso ∧
      (assertCs s).len = s.len := by
  rw [assertCs]
  split <;> exact ⟨rfl, rfl, rfl, rfl⟩

theorem segAccepted_run (f : SegFlags) (n : Word) (tx : List Byte) (rest : List ClientOp) (ready : Ready s) :
    SegRun (segAccepted f n tx rest s) f (segAccepted f n tx rest s) := by
  have idle : Ready (segRequest f n tx rest s) := ready.of_sameBus rfl
  refine ⟨idle.inv.acceptSegment ready.idle _ _ _ _, .acceptSegment idle.inv ready.idle _ _ _ _, Phase.noConfusion, rfl,
    ⟨[], .of_eq rfl rfl⟩, fun rx => ?_⟩
  obtain ⟨-, buf, -, -⟩ := assertCs_requester (segRequest f n tx rest s)
  exact buf.trans (if_pos rx)

/-! ### The end of the driver -/

/-- What SEG leaves where it has run to its end: the exchanges `xs` of its segment, CsLow before them where SS was 0 and
CsHigh after them where LAST = 1; the receive buffer and the CRC as the flags say (R195). -/
structure SegDone (s : State) (f : SegFlags) (n : Word) (tx : List Byte) (t : State)
    (xs : List (Byte × Byte)) : Prop where
  setup : SameSetup s t
  ready : Ready t
  ss : t.ss = !f.last
  len : t.len = n
  length : xs.length = n.toNat
  trace : t.trace = s.trace ++ (if s.ss then [] else [.csLow s.ctrlSel (idx s.ssmask)]) ++
    xs.map (fun x => .byte s.ctrlSel (idx s.ssmask) x.1 x.2) ++
    if f.last then [.csHigh s.ctrlSel (idx s.ssmask)] else []
  mosi : xs.map Prod.fst = if f.tx then tx else List.replicate n.toNat s.cfg.dummyByte
  buf : f.rx = true → t.rxbuf = xs.map Prod.snd
  crc : t.crc = if f.crc then crcFold s.crc (xs.map Prod.snd) else s.crc
  answered : Answered s.miso (xs.map Prod.snd) t.miso

/-- With the segment ended, the loop's last STATUS read shows BUSY = 0, and the loop is done. -/
theorem Ready.segLoop_next {unsent : List Byte} (ready : Ready s) (client : s.client = .segLoop f unsent :: rest) :
    step s = .next { s with client := rest, reads := s.reads ++ [s.statusWord] } := by
  have done : segPass f unsent s.statusWord = [] := by
    rw [segPass, statusWord_of_idle ready.idle]
    rfl
  have read : step s =
      .next (thenDo (segPass f unsent s.statusWord) (returnRead s.statusWord { s with client := rest })) := by
    rw [ready.step_eq client, clientStep, runRequest_readStatus, andThen, returnRead_lastRead]
    rfl
  rw [read, done]
  rfl

/-- The end of the loop, told from the state in which SEG begins. -/
theorem SegEnds.segDone {xs : List (Byte × Byte)} (ends : SegEnds (segAccepted f n tx rest s) f n tx t xs)
    (ready : Ready s) : SegDone s f n tx t xs := by
  have start : SameSetup s (segAccepted f n tx rest s) := segAccepted_sameSetup f n tx rest s
  have setup : SameSetup s t := start.trans ends.same.sameSetup
  obtain ⟨-, -, misoStart, lenStart⟩ := assertCs_requester (segRequest f n tx rest s)
  refine ⟨setup, ready.of_sameSetup setup ends.inv ends.idle, ends.ss, ?_, ends.length, ?_, ?_, ends.buf, ends.crc, ?_⟩
  · rw [ends.same]
    exact lenStart
  · rw [ends.trace, segAccepted_trace, start.ctrlSel, start.ssmask]
  · rw [ends.mosi, start.cfg]
  · have answered := ends.answered
    rwa [show (segAccepted f n tx rest s).miso = s.miso from misoStart] at answered

/-- What is said of SEG's end holds on where the requester goes on with other than its receive buffer. -/
theorem SegDone.of_sameBus {u : State} {xs : List (Byte × Byte)} (done : SegDone s f n tx t xs) (same : SameBus t u)
    (len : u.len = t.len) (crc : u.crc = t.crc) (rxbuf : u.rxbuf = t.rxbuf) (rpc : u.rpc = t.rpc) :
    SegDone s f n tx u xs := by
  refine ⟨done.setup.trans (same.sameSetup rpc), done.ready.of_sameBus same, ?_, len.trans done.len, done.length, ?_,
    done.mosi, fun rx => rxbuf.trans (done.buf rx), crc.trans done.crc, ?_⟩
  · rw [same]; exact done.ss
  · rw [same]; exact done.trace
  · rw [same]; exact done.answered

theorem Ready.seg (ready : Ready s) (client : s.client = .seg f n tx :: rest)
    (length : f.tx = true → tx.length = n.toNat) : ∃ t xs, Reaches s t ∧ t.client = rest ∧ SegDone s f n tx t xs := by
  obtain ⟨clientStart, -, -, -⟩ := assertCs_requester (segRequest f n tx rest s)
  obtain ⟨t, xs, unsent, reached, ends, clientEnd⟩ :=
    (segAccepted_run f n tx rest ready).reaches_end (take := false) (segAccepted_start f n tx rest ready) clientStart
      Bool.noConfusion length fun isTx => by rw [← length isTx, List.take_length]; rfl
  have done := ends.segDone ready
  have last : Reaches t { t with client := rest, reads := t.reads ++ [t.statusWord] } :=
    .head (done.ready.segLoop_next clientEnd) (.refl _)
  exact ⟨_, xs, (ready.reaches_segAccepted client).trans (reached.trans last), rfl, done.of_sameBus rfl rfl rfl rfl rfl⟩

end

/-- Settles O45: SEG's accesses accept the segment, its loop runs to the segment's end, and one more STATUS read ends
the loop. -/
theorem segDriverCompletes : Obligations.SegDriverCompletes := by
  intro s f n tx rest inv turns idle client init length
  obtain ⟨t, xs, ⟨k, run⟩, clientEnd, done⟩ := Ready.seg ⟨inv, turns, idle, init⟩ client length
  obtain ⟨setup, ready, ss, len, exchanged, trace, mosi, buf, crc, answered⟩ := done
  exact ⟨k, t, xs, run, clientEnd, ready.idle, ready.turns, ss, setup.err, setup.marks, len, setup.ctrlSel,
    setup.ssmask, setup.prog, setup.rpc, exchanged, trace, mosi, buf, crc, fun answers later named many =>
    answered answers later named (many.trans (by rw [List.length_map, exchanged]))⟩

end Sys2Proof.Machine
end

section
/-! PROOF. Commands of one or two segments under one chip-select (R91, R182 to R185, R193): obligations O52 and O53. -/

namespace Sys2Proof.Machine

/-! ### Frames on the bus -/

/-- From `s` to `t` the requester runs one command: CsLow (not where SS was 1), the exchanges `xs`, CsHigh (R91). -/
structure FrameDone (s t : State) (xs : List (Byte × Byte)) : Prop where
  setup : SameSetup s t
  ready : Ready t
  ss : t.ss = false
  trace : t.trace = s.trace ++ busFrame s.ss s.ctrlSel (idx s.ssmask) xs
  answered : Answered s.miso (xs.map Prod.snd) t.miso

/-- The bytes an answered command brought, where the slave's answers are named. -/
theorem FrameDone.answers {s t : State} {xs : List (Byte × Byte)} {answers later : List Byte} (done : FrameDone s t xs)
    (named : s.miso = answers ++ later) (length : answers.length = xs.length) :
    xs.map Prod.snd = answers ∧ t.miso = later :=
  done.answered answers later named (by rw [List.length_map, length])

section
variable {s t u : State} {f g : SegFlags} {n m : Word} {tx more h : List Byte} {xs ys : List (Byte × Byte)}
  {rest : List ClientOp}

theorem SegDone.frame (done : SegDone s f n tx t xs) (last : f.last = true) : FrameDone s t xs := by
  refine ⟨done.setup, done.ready, by rw [done.ss, last]; rfl, ?_, done.answered⟩
  rw [done.trace, last, busFrame, List.append_assoc, List.append_assoc, List.append_assoc]
  rfl

/-- Two segments, LAST in the second alone, are one command: chip-select stays low between them (R114, R103). -/
theorem SegDone.frame_append (first : SegDone s f n tx t xs) (second : SegDone t g m more u ys)
    (notLast : f.last = false) (last : g.last = true) : FrameDone s u (xs ++ ys) := by
  have setup := first.setup
  have low : t.ss = true := by rw [first.ss, notLast]; rfl
  refine ⟨setup.trans second.setup, second.ready, by rw [second.ss, last]; rfl, ?_, ?_⟩
  · rw [second.trace, low, setup.ctrlSel, setup.ssmask, first.trace, last, notLast, busFrame, List.map_append]
    simp only [if_true, Bool.false_eq_true, if_false, List.append_nil, List.append_assoc]
  · rw [List.map_append]
    exact first.answered.append second.answered

theorem toNat_ofNat_length (short : h.length < 2 ^ 32) : (BitVec.ofNat 32 h.length).toNat = h.length := by
  rw [BitVec.toNat_ofNat, Nat.mod_eq_of_lt short]

/-- One TX segment with LAST = 1. -/
theorem Ready.sendLast (ready : Ready s) (client : s.client = segTx true h :: rest) (short : h.length < 2 ^ 32) :
    ∃ t xs, Reaches s t ∧ t.client = rest ∧ FrameDone s t xs ∧ t.crc = s.crc ∧ xs.map Prod.fst = h := by
  obtain ⟨t, xs, reached, clientEnd, done⟩ := ready.seg client fun _ => (toNat_ofNat_length short).symm
  exact ⟨t, xs, reached, clientEnd, done.frame rfl, done.crc, done.mosi⟩

/-- One RX segment with LAST = 1. -/
theorem Ready.readLast (ready : Ready s) (client : s.client = segRxLast n :: rest) :
    ∃ t xs, Reaches s t ∧ t.client = rest ∧ FrameDone s t xs ∧ t.crc = s.crc ∧
      xs.map Prod.fst = List.replicate n.toNat s.cfg.dummyByte ∧ t.rxbuf = xs.map Prod.snd := by
  obtain ⟨t, xs, reached, clientEnd, done⟩ := ready.seg client Bool.noConfusion
  exact ⟨t, xs, reached, clientEnd, done.frame rfl, done.crc, done.mosi, done.buf rfl⟩

/-- A TX segment of `h` that leaves the command open, and the segment of `f` that closes it. -/
theorem Ready.sendThen (ready : Ready s) (client : s.client = segTx false h :: .seg f n tx :: rest)
    (short : h.length < 2 ^ 32) (last : f.last = true) (length : f.tx = true → tx.length = n.toNat) :
    ∃ t xs, Reaches s t ∧ t.client = rest ∧ FrameDone s t xs ∧
      xs.map Prod.fst = h ++ (if f.tx then tx else List.replicate n.toNat s.cfg.dummyByte) ∧
      (f.rx = true → t.rxbuf = (xs.map Prod.snd).drop h.length) ∧
      t.crc = if f.crc then crcFold s.crc ((xs.map Prod.snd).drop h.length) else s.crc := by
  obtain ⟨t, xs, reached, clientMid, first⟩ := ready.seg client fun _ => (toNat_ofNat_length short).symm
  obtain ⟨u, ys, later, clientEnd, second⟩ := first.ready.seg clientMid length
  have sent : xs.map Prod.fst = h := first.mosi
  have ofSecond : ((xs ++ ys).map Prod.snd).drop h.length = ys.map Prod.snd := by
    rw [List.map_append, ← sent, List.length_map, ← List.length_map (f := Prod.snd), List.drop_left]
  have crcMid : t.crc = s.crc := first.crc
  refine ⟨u, xs ++ ys, reached.trans later, clientEnd, first.frame_append second rfl last, ?_, fun rx => ?_, ?_⟩
  · rw [List.map_append, sent, second.mosi, first.setup.cfg]
  · rw [ofSecond, second.buf rx]
  · rw [ofSecond, second.crc, crcMid]

end

/-! ### The statements that are one sequence -/

section
variable {s : State} {st : Stmt} {seq : List ClientOp}

/-- A statement that turns the requester to a sequence of micro-statements. -/
theorem Ready.sequence_next (ready : Ready s) (client : s.client = []) (prog : s.prog[s.rpc]? = some st)
    (runs : ∀ u, runStmt st u = .next (startSequence seq u)) :
    step s = .next { s with rpc := s.rpc + 1, client := seq } := by
  have turn : requesterTurn s = runStmt st { s with rpc := s.rpc + 1 } := by
    rw [requesterTurn]
    simp only [client, prog]
  rw [ready.step_eq_requesterTurn, turn, runs, startSequence]
  simp only [client, List.append_nil]

end

/-- One exchange, by the byte that went out. -/
theorem eq_singleton_of_map_fst {op : Byte} {xs : List (Byte × Byte)} (sent : xs.map Prod.fst = [op]) :
    ∃ m, xs = [(op, m)] := by
  obtain ⟨x, rfl⟩ := List.length_eq_one_iff.mp (by simpa using congrArg List.length sent)
  obtain ⟨mosi, miso⟩ := x
  cases sent
  exact ⟨miso, rfl⟩

/-- Settles O52: each form of the two commands is one TX segment of one byte with LAST = 1. -/
theorem writeEnableFrame : Obligations.WriteEnableFrame := by
  intro s st op form inv turns client idle init prog
  have runs : ∀ u, runStmt st u = .next (startSequence [segTx true [op]] u) := by
    obtain ⟨rfl, rfl | rfl⟩ | ⟨rfl, rfl | rfl⟩ := form
    all_goals exact fun _ => rfl
  have ready : Ready s := ⟨inv, turns, idle, init⟩
  have readySeq : Ready { s with rpc := s.rpc + 1, client := [segTx true [op]] } := ready.of_sameBus rfl
  obtain ⟨t, xs, reached, clientEnd, done, crc, sent⟩ := readySeq.sendLast rfl (by simp)
  obtain ⟨m, rfl⟩ := eq_singleton_of_map_fst sent
  obtain ⟨k, run⟩ := Reaches.head (ready.sequence_next client prog runs) reached
  exact ⟨k, t, m, run, clientEnd, done.setup.rpc, done.ready.idle, done.ss, done.setup.err, done.setup.marks, crc,
    done.trace⟩

/-! ### Commands that send and then read -/

theorem hdr_length (op3 op4 : Byte) (off : Word) : (hdr op3 op4 off).length = abytes off + 1 := by
  rw [hdr, List.length_cons, addr_length]

theorem hdr_short (op3 op4 : Byte) (off : Word) : (hdr op3 op4 off).length < 2 ^ 32 := by
  have width : abytes off ≤ 4 := by rw [abytes]; split <;> decide
  rw [hdr_length]
  omega

theorem exec_flashReadInstr (len off : Word) (s : State) :
    exec (flashReadInstr len off) s = .next (startSequence (readSequence (hdr 0x03#8 0x13#8 off) len) s) := by
  rw [flashReadInstr, hdr, addr]
  split <;> rfl

/-- READ4 decodes at any offset; that one below 2^24 is not R180's form does not matter here. -/
theorem decode_encode_read4 (dummy : Byte) (off n : Word) :
    decode (encode dummy (.read4 off n)) = .ok (.read4 off n) := by
  simp [decode, encode, decodeFrame, bytes4, address4, counted, Laws.bytes4_join, n.isLt]

theorem runStmt_encode {i : Instr} {dummy : Byte} (decoded : decode (encode dummy i) = .ok i) (s : State) :
    runStmt (.request (encode dummy i)) s = exec i s := runRequest_of_decoded decoded s

/-- Each form of a command that sends `h` and then reads is FLASH_READ's sequence or CUSTOM's. -/
theorem SendsThenReads.runs {st : Stmt} {h : List Byte} {n : Word} (sends : SendsThenReads st h n) :
    h.length < 2 ^ 32 ∧
      ((∀ s, runStmt st s = .next (startSequence (readSequence h n) s)) ∧
          (∀ off, st = .pseudo (.flashRead n off) → h.length = abytes off + 1) ∨
        (∀ s, runStmt st s = .next (startSequence (customSequence h n) s)) ∧ (h ≠ [] ∨ n ≠ 0#32) ∧
          ∀ off, st ≠ .pseudo (.flashRead n off)) := by
  obtain ⟨off, rfl, rfl⟩ | ⟨dummy, off, rfl, rfl⟩ | ⟨dummy, off, rfl, rfl⟩ | ⟨form, rfl, rfl⟩ | ⟨dummy, rfl, rfl⟩ |
    ⟨rfl, short, some⟩ := sends
  · refine ⟨hdr_short .., .inl ⟨exec_flashReadInstr n off, fun off' same => ?_⟩⟩
    cases same
    exact hdr_length ..
  · refine ⟨by simp [bytes3], .inl ⟨runStmt_encode (Laws.RoundTrip.read off n dummy rfl), fun _ same => ?_⟩⟩
    cases same
  · refine ⟨by simp [bytes4], .inl ⟨runStmt_encode (decode_encode_read4 dummy off n), fun _ same => ?_⟩⟩
    cases same
  · refine ⟨by decide, .inl ⟨?_, fun off same => ?_⟩⟩
    · obtain rfl | ⟨dummy, rfl⟩ := form
      all_goals exact fun _ => rfl
    · obtain rfl | ⟨dummy, rfl⟩ := form
      all_goals cases same
  · exact ⟨by decide, .inr ⟨runStmt_encode (Laws.RoundTrip.rdid n dummy rfl), .inl (by simp),
      fun _ same => by cases same⟩⟩
  · exact ⟨short, .inr ⟨fun _ => rfl, some, fun _ same => by cases same⟩⟩

/-- The run of a command that sends `h` and then reads `n` bytes. -/
structure SendReadDone (s t : State) (h : List Byte) (n : Word) (xs : List (Byte × Byte)) : Prop where
  frame : FrameDone s t xs
  crc : t.crc = s.crc
  mosi : xs.map Prod.fst = h ++ List.replicate n.toNat s.cfg.dummyByte

section
variable {s : State} {h : List Byte} {n : Word} {rest : List ClientOp}

theorem Ready.readSequence (ready : Ready s) (client : s.client = readSequence h n) (short : h.length < 2 ^ 32) :
    ∃ t xs, Reaches s t ∧ t.client = [] ∧ SendReadDone s t h n xs ∧ t.rxbuf = (xs.map Prod.snd).drop h.length := by
  obtain ⟨t, xs, reached, clientEnd, done, mosi, buf, crc⟩ := ready.sendThen client short rfl Bool.noConfusion
  exact ⟨t, xs, reached, clientEnd, ⟨done, crc, mosi⟩, buf rfl⟩

/-- CUSTOM by which of its two parts are empty (R193). -/
theorem Ready.customSequence (ready : Ready s) (client : s.client = customSequence h n) (short : h.length < 2 ^ 32)
    (some : h ≠ [] ∨ n ≠ 0#32) :
    ∃ t xs, Reaches s t ∧ t.client = [] ∧ SendReadDone s t h n xs ∧
      (n ≠ 0#32 → t.rxbuf = (xs.map Prod.snd).drop h.length) := by
  by_cases noRead : n = 0#32
  case pos =>
    subst noRead
    have sends : h ≠ [] := some.resolve_right (not_not_intro rfl)
    have single : Machine.customSequence h 0#32 = [segTx true h] := by
      rw [customSequence_eq, if_neg sends]
      rfl
    obtain ⟨t, xs, reached, clientEnd, done, crc, mosi⟩ := ready.sendLast (client.trans single) short
    exact ⟨t, xs, reached, clientEnd, ⟨done, crc, mosi.trans (List.append_nil h).symm⟩, absurd rfl⟩
  case neg =>
    by_cases nothing : h = []
    case pos =>
      subst nothing
      have single : Machine.customSequence [] n = [segRxLast n] := by
        rw [customSequence_eq, if_neg noRead]
        rfl
      obtain ⟨t, xs, reached, clientEnd, done, crc, mosi, buf⟩ := ready.readLast (client.trans single)
      exact ⟨t, xs, reached, clientEnd, ⟨done, crc, mosi⟩, fun _ => buf⟩
    case neg =>
      have both : Machine.customSequence h n = Machine.readSequence h n := by
        rw [customSequence_eq, if_neg nothing, if_neg noRead, decide_eq_false noRead]
        rfl
      obtain ⟨t, xs, reached, clientEnd, done, buf⟩ := ready.readSequence (client.trans both) short
      exact ⟨t, xs, reached, clientEnd, done, fun _ => buf⟩

end

/-- Each such statement is one sequence, and that sequence is one frame. -/
theorem SendsThenReads.sequence {st : Stmt} {h : List Byte} {n : Word} (sends : SendsThenReads st h n) :
    ∃ seq, (∀ s, runStmt st s = .next (startSequence seq s)) ∧
      ∀ s, Ready s → s.client = seq → ∃ t xs, Reaches s t ∧ t.client = [] ∧ SendReadDone s t h n xs ∧
        (n ≠ 0#32 → t.rxbuf = (xs.map Prod.snd).drop h.length) ∧
        ∀ off, st = .pseudo (.flashRead n off) → t.rxbuf = (xs.map Prod.snd).drop (abytes off + 1) := by
  obtain ⟨short, ⟨runs, width⟩ | ⟨runs, some, notRead⟩⟩ := sends.runs
  case inl =>
    refine ⟨_, runs, fun s ready client => ?_⟩
    obtain ⟨t, xs, reached, clientEnd, done, buf⟩ := ready.readSequence client short
    exact ⟨t, xs, reached, clientEnd, done, fun _ => buf, fun off isRead => width off isRead ▸ buf⟩
  case inr =>
    refine ⟨_, runs, fun s ready client => ?_⟩
    obtain ⟨t, xs, reached, clientEnd, done, buf⟩ := ready.customSequence client short some
    exact ⟨t, xs, reached, clientEnd, done, buf, fun off isRead => absurd isRead (notRead off)⟩

/-- Settles O53: the statement turns the requester to its sequence, which is one frame. -/
theorem flashReadFrame : Obligations.FlashReadFrame := by
  intro s st h n sends inv turns client idle init prog
  have ready : Ready s := ⟨inv, turns, idle, init⟩
  obtain ⟨seq, runs, frame⟩ := sends.sequence
  obtain ⟨t, xs, reached, clientEnd, ⟨done, crc, mosi⟩, buf, bufRead⟩ :=
    frame { s with rpc := s.rpc + 1, client := seq } (ready.of_sameBus rfl) rfl
  obtain ⟨k, run⟩ := Reaches.head (ready.sequence_next client prog runs) reached
  refine ⟨k, t, xs, run, clientEnd, done.setup.rpc, done.ready.idle, done.ss, done.setup.err, done.setup.marks, crc,
    mosi, buf, bufRead, done.trace, fun answers later named length => done.answers named (length.trans ?_)⟩
  simpa using (congrArg List.length mosi).symm

end Sys2Proof.Machine
end

section
/-! PROOF. PROGRAM and ERASE with the polls that follow them (R186 to R188): obligation O60. -/

namespace Sys2Proof.Machine

/-- What the requester does next is no part of the setup. -/
theorem sameSetup_client (s : State) (ops : List ClientOp) : SameSetup s { s with client := ops } :=
  SameBus.sameSetup rfl rfl

/-! ### One poll and the loop of polls -/

/-- From `s` to `t` the flash was polled: one RDSR1 frame for each of `polls`, whose exchanges bring its
answers (R188). -/
structure PollsDone (s t : State) (polls : List (Byte × Byte)) : Prop where
  setup : SameSetup s t
  ready : Ready t
  ss : t.ss = false
  crc : t.crc = s.crc
  trace : t.trace = s.trace ++ polls.flatMap fun p =>
    busFrame false s.ctrlSel (idx s.ssmask) [(0x05#8, p.1), (s.cfg.dummyByte, p.2)]

theorem PollsDone.trans {s t u : State} {one two : List (Byte × Byte)} (first : PollsDone s t one)
    (second : PollsDone t u two) : PollsDone s u (one ++ two) := by
  have setup := first.setup
  refine ⟨setup.trans second.setup, second.ready, second.ss, second.crc.trans first.crc, ?_⟩
  rw [second.trace, first.trace, setup.ctrlSel, setup.ssmask, setup.cfg, List.flatMap_append, List.append_assoc]

section
variable {s : State} {rest : List ClientOp}

/-- One turn of the loop: RDSR1, and the test of the byte it brought. -/
theorem Ready.waitIdle_turn {p : Byte × Byte} {later : List Byte} (ready : Ready s) (released : s.ss = false)
    (client : s.client = .waitIdle :: rest) (miso : s.miso = p.1 :: p.2 :: later) :
    ∃ t, Reaches s t ∧ t.client = waitPass p.2 ++ rest ∧ PollsDone s t [p] ∧ t.miso = later ∧ t.rxbuf = [p.2] := by
  have begin : step s = .next { s with client := rdsr1Sequence ++ [.waitTest] ++ rest } := by
    rw [ready.step_eq client, clientStep]
    rfl
  have readySeq : Ready { s with client := rdsr1Sequence ++ [.waitTest] ++ rest } := ready.of_sameBus rfl
  obtain ⟨t, xs, reached, clientTest, done, mosi, buf, crc⟩ :=
    readySeq.sendThen rfl (by decide) rfl Bool.noConfusion
  have two : xs.length = 2 := by simpa using congrArg List.length mosi
  obtain ⟨answers, left⟩ := done.answers (answers := [p.1, p.2]) miso (by rw [two]; rfl)
  have exchanged : xs = [(0x05#8, p.1), (s.cfg.dummyByte, p.2)] := List.zip_of_prod mosi answers
  have bufIs : t.rxbuf = [p.2] := by rw [buf rfl, answers]; rfl
  have clientTest : t.client = .waitTest :: rest := clientTest
  have test : step t = .next { t with client := waitPass p.2 ++ rest } := by
    rw [done.ready.step_eq clientTest, clientStep, waitTurn_of_cons (s := { t with client := rest }) bufIs]
    rfl
  have setup := ((sameSetup_client s _).trans done.setup).trans (sameSetup_client t (waitPass p.2 ++ rest))
  refine ⟨{ t with client := waitPass p.2 ++ rest }, .head begin (reached.trans (.head test (.refl _))), rfl, ?_,
    left, bufIs⟩
  refine ⟨setup, done.ready.of_sameBus rfl, done.ss, crc, ?_⟩
  have trace := done.trace
  rw [exchanged] at trace
  change t.trace = _
  rw [trace, ← released]
  exact congrArg _ (List.append_nil _).symm

/-- The loop of polls, over a slave that is busy for the polls `busy` and then idle. -/
theorem Ready.waitIdle_loop {busy : List (Byte × Byte)} {idle : Byte × Byte} {later : List Byte}
    (isBusy : ∀ p ∈ busy, p.2.getLsbD 0 = true) (isIdle : idle.2.getLsbD 0 = false) (ready : Ready s)
    (released : s.ss = false) (client : s.client = .waitIdle :: rest)
    (miso : s.miso = (busy ++ [idle]).flatMap (fun p => [p.1, p.2]) ++ later) :
    ∃ t, Reaches s t ∧ t.client = rest ∧ PollsDone s t (busy ++ [idle]) ∧ t.miso = later ∧ t.rxbuf = [idle.2] := by
  induction busy generalizing s with
  | nil =>
    obtain ⟨t, reached, clientEnd, polls, left, buf⟩ := ready.waitIdle_turn released client miso
    have ends : waitPass idle.2 = [] := by rw [waitPass, isIdle]; rfl
    exact ⟨t, reached, by rw [clientEnd, ends, List.nil_append], polls, left, buf⟩
  | cons p busy ih =>
    rw [List.forall_mem_cons] at isBusy
    obtain ⟨t, reached, clientMid, polls, left, -⟩ := ready.waitIdle_turn released client miso
    have again : waitPass p.2 = [.waitIdle] := by rw [waitPass, isBusy.1]; rfl
    obtain ⟨u, onward, clientEnd, more, leftEnd, buf⟩ :=
      ih isBusy.2 polls.ready polls.ss (by rw [clientMid, again]; rfl) left
    exact ⟨u, reached.trans onward, clientEnd, polls.trans more, leftEnd, buf⟩

end

/-! ### The commands -/

theorem exec_flashProgramInstr (src : List Byte) (off : Word) (s : State) :
    exec (flashProgramInstr src off) s = .next (startSequence (programSequence (hdr 0x02#8 0x12#8 off) src) s) := by
  rw [flashProgramInstr, hdr, addr]
  split <;> rfl

theorem exec_flashEraseInstr (off : Word) (s : State) :
    exec (flashEraseInstr off) s = .next (startSequence (eraseSequence (hdr 0xD8#8 0xDC#8 off)) s) := by
  rw [flashEraseInstr, hdr, addr]
  split <;> rfl

/-- PP4 and SE4 decode at any offset, as READ4 does. -/
theorem decode_encode_pp4 (dummy : Byte) (off : Word) {src : List Byte} (short : src.length < 2 ^ 32) :
    decode (encode dummy (.pp4 off src)) = .ok (.pp4 off src) := by
  simp only [decode, encode, decodeFrame, bytes4, address4, counted, List.cons_append, List.nil_append,
    Laws.bytes4_join, if_pos short]
  rfl

theorem decode_encode_se4 (dummy : Byte) (off : Word) : decode (encode dummy (.se4 off)) = .ok (.se4 off) := by
  simp [decode, encode, decodeFrame, bytes4, address4, exactly, Laws.bytes4_join]

/-- Each form of the commands is PROGRAM's sequence or ERASE's. -/
theorem ProgramsOrErases.runs {st : Stmt} {cmd : List Byte} (form : ProgramsOrErases st cmd) :
    (∃ h src, cmd = h ++ src ∧ h.length < 2 ^ 32 ∧ src.length < 2 ^ 32 ∧
        ∀ s, runStmt st s = .next (startSequence (programSequence h src) s)) ∨
      (cmd.length < 2 ^ 32 ∧ ∀ s, runStmt st s = .next (startSequence (eraseSequence cmd) s)) := by
  obtain ⟨src, off, short, rfl, rfl⟩ | ⟨dummy, off, src, short, rfl, rfl⟩ | ⟨dummy, off, src, short, rfl, rfl⟩ |
    ⟨off, rfl, rfl⟩ | ⟨dummy, off, rfl, rfl⟩ | ⟨dummy, off, rfl, rfl⟩ := form
  · exact .inl ⟨_, src, rfl, hdr_short .., short, exec_flashProgramInstr src off⟩
  · have decoded : decode (encode dummy (.pp off src)) = .ok (.pp off src) :=
      Laws.RoundTrip.pp off src dummy (decide_eq_true short)
    exact .inl ⟨_, src, rfl, by simp [bytes3], short, runStmt_encode decoded⟩
  · exact .inl ⟨_, src, rfl, by simp [bytes4], short, runStmt_encode (decode_encode_pp4 dummy off short)⟩
  · exact .inr ⟨hdr_short .., exec_flashEraseInstr off⟩
  · exact .inr ⟨by simp [bytes3], runStmt_encode (Laws.RoundTrip.se off dummy rfl)⟩
  · exact .inr ⟨by simp [bytes4], runStmt_encode (decode_encode_se4 dummy off)⟩

/-- Each such statement is one sequence: the command's frame, and then the polls. -/
theorem ProgramsOrErases.sequence {st : Stmt} {cmd : List Byte} (form : ProgramsOrErases st cmd) :
    ∃ seq, (∀ s, runStmt st s = .next (startSequence seq s)) ∧
      ∀ s, Ready s → s.client = seq → ∃ t xs, Reaches s t ∧ t.client = [.waitIdle] ∧ FrameDone s t xs ∧
        t.crc = s.crc ∧ xs.map Prod.fst = cmd := by
  obtain ⟨h, src, rfl, shortHeader, short, runs⟩ | ⟨short, runs⟩ := form.runs
  case inl =>
    refine ⟨_, runs, fun s ready client => ?_⟩
    obtain ⟨t, xs, reached, clientWait, done, mosi, -, crc⟩ :=
      ready.sendThen client shortHeader rfl fun _ => (toNat_ofNat_length short).symm
    exact ⟨t, xs, reached, clientWait, done, crc, mosi⟩
  case inr =>
    refine ⟨_, runs, fun s ready client => ?_⟩
    exact ready.sendLast client short

/-- Settles O60: the command's frame, and then one turn of the loop for each status byte. -/
theorem programEraseFrames : Obligations.ProgramEraseFrames := by
  intro s st cmd answers busy idle later form inv turns client isIdlePhase init prog length isBusy isIdle miso
  have ready : Ready s := ⟨inv, turns, isIdlePhase, init⟩
  obtain ⟨seq, runs, frame⟩ := form.sequence
  obtain ⟨t, xs, reached, clientWait, done, crc, mosi⟩ :=
    frame { s with rpc := s.rpc + 1, client := seq } (ready.of_sameBus rfl) rfl
  have exchanged : xs.length = cmd.length := by simpa using congrArg List.length mosi
  obtain ⟨answered, left⟩ := done.answers (miso.trans (List.append_assoc ..)) (length.trans exchanged.symm)
  obtain ⟨u, onward, clientEnd, polls, leftEnd, buf⟩ := done.ready.waitIdle_loop isBusy isIdle done.ss clientWait left
  obtain ⟨k, run⟩ := Reaches.head (ready.sequence_next client prog runs) (reached.trans onward)
  have setup := done.setup.trans polls.setup
  refine ⟨k, u, run, clientEnd, setup.rpc, polls.ready.idle, polls.ss, setup.err, setup.marks, polls.crc.trans crc,
    leftEnd, buf, ?_⟩
  rw [polls.trace, done.trace, done.setup.ctrlSel, done.setup.ssmask, done.setup.cfg,
    List.zip_of_prod mosi answered]

end Sys2Proof.Machine
end

section
/-! PROOF. READCRC from its statement to the CRC it returns (R190 to R192): obligation O54. -/

namespace Sys2Proof.Machine

/-- A chunk is there exactly where bytes of the range are left before it. -/
theorem lt_chunkCount_iff {size j : Nat} : j < chunkCount size ↔ 1024 * j < size := by
  rw [chunkCount]
  omega

theorem le_chunkCount (size : Nat) : size ≤ 1024 * chunkCount size := by
  rw [chunkCount]
  omega

section
variable {F : Nat → Byte} {junk : Nat → List Byte} {off : Word} {size j : Nat}

/-- What goes out in chunk `j`: the READ's header, and DUMMY_BYTE for each byte of the chunk. -/
theorem chunkExchanges_mosi (dummy : Byte) (headers : ∀ j, (junk j).length = abytes (chunkOffset off j) + 1) :
    (chunkExchanges dummy F junk off size j).map Prod.fst =
      hdr 0x03#8 0x13#8 (chunkOffset off j) ++ List.replicate (min 1024 (size - 1024 * j)) dummy := by
  have sent := List.map_fst_zip (l₁ := hdr 0x03#8 0x13#8 (chunkOffset off j)) (l₂ := junk j)
    (by rw [hdr_length, headers])
  rw [chunkExchanges, List.map_append, sent, List.map_map, Function.comp_def, List.map_const', List.length_range]

/-- What comes in behind the header's answers: the bytes of the flash from the chunk's offset on (R191). -/
theorem chunkExchanges_miso_drop (dummy : Byte) (headers : ∀ j, (junk j).length = abytes (chunkOffset off j) + 1) :
    ((chunkExchanges dummy F junk off size j).map Prod.snd).drop (hdr 0x03#8 0x13#8 (chunkOffset off j)).length =
      (List.range (min 1024 (size - 1024 * j))).map fun i => F (off.toNat + (1024 * j + i)) := by
  have came := List.map_snd_zip (l₁ := hdr 0x03#8 0x13#8 (chunkOffset off j)) (l₂ := junk j)
    (by rw [hdr_length, headers])
  have width : (hdr 0x03#8 0x13#8 (chunkOffset off j)).length = (junk j).length := by rw [hdr_length, headers]
  rw [chunkExchanges, List.map_append, came, width, List.drop_left, List.map_map]
  simp only [Function.comp_def, Nat.add_assoc]

end

/-! ### The loop -/

/-- From `s` to `t` READCRC folded the first `j` chunks of its range, one READ frame for each (R190). -/
structure ChunksDone (F : Nat → Byte) (junk : Nat → List Byte) (off : Word) (size : Nat) (s t : State) (j : Nat) :
    Prop where
  setup : SameSetup s t
  ready : Ready t
  ss : t.ss = (s.ss && decide (j = 0))
  crc : t.crc = crcFold s.crc ((List.range (min (1024 * j) size)).map fun i => F (off.toNat + i))
  trace : t.trace = s.trace ++ (List.range j).flatMap fun i =>
    busFrame (s.ss && decide (i = 0)) s.ctrlSel (idx s.ssmask) (chunkExchanges s.cfg.dummyByte F junk off size i)

section
variable {F : Nat → Byte} {junk : Nat → List Byte} {off : Word} {size j : Nat} {s t : State} {later : List Byte}
  {rest : List ClientOp}

theorem ChunksDone.zero (ready : Ready s) : ChunksDone F junk off size s s 0 :=
  ⟨.refl s, ready, (Bool.and_true _).symm, by rw [Nat.mul_zero, Nat.zero_min]; rfl, (List.append_nil _).symm⟩

variable (headers : ∀ j, (junk j).length = abytes (chunkOffset off j) + 1)
include headers

/-- One turn of the loop is one READ frame, whose answers are folded into the CRC. -/
theorem Ready.crcLoop_turn (ready : Ready t) (more : 1024 * j < size)
    (client : t.client = .crcLoop off size (1024 * j) :: rest)
    (miso : t.miso = (chunkExchanges t.cfg.dummyByte F junk off size j).map Prod.snd ++ later) :
    ∃ u, Reaches t u ∧ u.client = .crcLoop off size (1024 * j + min 1024 (size - 1024 * j)) :: rest ∧
      SameSetup t u ∧ Ready u ∧ u.ss = false ∧ u.miso = later ∧
      u.trace = t.trace ++ busFrame t.ss t.ctrlSel (idx t.ssmask) (chunkExchanges t.cfg.dummyByte F junk off size j) ∧
      u.crc = crcFold t.crc
        ((List.range (min 1024 (size - 1024 * j))).map fun i => F (off.toNat + (1024 * j + i))) := by
  have begin : step t = .next { t with client := crcPass off size (1024 * j) ++ rest } := by
    rw [ready.step_eq client]
    rfl
  have readySeq : Ready { t with client := crcPass off size (1024 * j) ++ rest } := ready.of_sameBus rfl
  obtain ⟨u, xs, reached, clientEnd, done, mosi, -, crc⟩ :=
    readySeq.sendThen (congrArg (· ++ rest) (crcPass_of_lt off more)) (hdr_short ..) rfl Bool.noConfusion
  have count : (BitVec.ofNat 32 (min 1024 (size - 1024 * j))).toNat = min 1024 (size - 1024 * j) := by
    rw [BitVec.toNat_ofNat, Nat.mod_eq_of_lt (by omega)]
  have sent : xs.map Prod.fst = (chunkExchanges t.cfg.dummyByte F junk off size j).map Prod.fst := by
    rw [chunkExchanges_mosi _ headers, mosi, count]
    rfl
  have length : xs.length = (chunkExchanges t.cfg.dummyByte F junk off size j).length := by
    simpa only [List.length_map] using congrArg List.length sent
  obtain ⟨came, left⟩ := done.answers miso (by rw [List.length_map, length])
  have exchanged : xs = chunkExchanges t.cfg.dummyByte F junk off size j :=
    (List.zip_of_prod sent came).trans (List.zip_of_prod rfl rfl).symm
  refine ⟨u, .head begin reached, clientEnd, (sameSetup_client t _).trans done.setup, done.ready, done.ss, left, ?_, ?_⟩
  · rw [done.trace, exchanged]
  · rw [crc, exchanged, ← chunkExchanges_miso_drop _ headers]
    rfl

/-- After `j` turns the first `j` chunks are folded. -/
theorem Ready.crcLoop (ready : Ready s) (client : s.client = .crcLoop off size 0 :: rest) (count : j ≤ chunkCount size)
    (miso : s.miso = (List.range j).flatMap (fun i =>
      (chunkExchanges s.cfg.dummyByte F junk off size i).map Prod.snd) ++ later) :
    ∃ t, Reaches s t ∧ t.client = .crcLoop off size (min (1024 * j) size) :: rest ∧
      ChunksDone F junk off size s t j ∧ t.miso = later := by
  induction j generalizing later with
  | zero => exact ⟨s, .refl s, by rw [client, Nat.mul_zero, Nat.zero_min], .zero ready, miso⟩
  | succ j ih =>
    rw [List.range_succ, List.flatMap_append, List.append_assoc] at miso
    obtain ⟨t, reached, clientMid, ⟨setup, readyMid, ss, crc, trace⟩, left⟩ := ih (by omega) miso
    have more : 1024 * j < size := lt_chunkCount_iff.mp count
    have begun : min (1024 * j) size = 1024 * j := Nat.min_eq_left more.le
    have next : min (1024 * (j + 1)) size = 1024 * j + min 1024 (size - 1024 * j) := by omega
    rw [begun] at clientMid crc
    rw [List.flatMap_singleton, ← setup.cfg] at left
    obtain ⟨u, onward, clientEnd, setupEnd, readyEnd, ssEnd, leftEnd, traceEnd, crcEnd⟩ :=
      readyMid.crcLoop_turn headers more clientMid left
    refine ⟨u, reached.trans onward, by rw [clientEnd, next], ⟨setup.trans setupEnd, readyEnd, ?_, ?_, ?_⟩, leftEnd⟩
    · rw [ssEnd, decide_eq_false (Nat.succ_ne_zero j), Bool.and_false]
    · rw [crcEnd, crc, next, List.range_add, List.map_append, List.map_map, crcFold_append]
      rfl
    · rw [traceEnd, trace, ss, setup.ctrlSel, setup.ssmask, setup.cfg, List.range_succ, List.flatMap_append,
        List.flatMap_singleton, List.append_assoc]

end

/-! ### The statement -/

section
variable {s : State} {off size : Word} {rest : List ClientOp}

theorem runPseudo_readcrc (inRange : off.toNat + size.toNat ≤ 2 ^ 32) (s : State) :
    runPseudo (.readcrc off size) s = .next (startSequence (readcrcSequence off size) s) :=
  if_pos (decide_eq_true inRange)

theorem Ready.writeCrcinit_next (ready : Ready s) (client : s.client = .write 0x00 crcinitWord :: rest) :
    step s = .next { s with client := rest, crc := Config.crcInit } := by
  obtain ⟨whereIdle, -⟩ := crcCommandsEffect 0#8 { s with client := rest }
  obtain ⟨-, -, word, -⟩ := whereIdle ready.idle
  rw [ready.step_eq client, clientStep, runRequest_writeCmd]
  exact word

/-- With the whole range folded the loop reads CRC, and is done. -/
theorem Ready.crcLoop_end {n : Nat} (ready : Ready s) (client : s.client = [.crcLoop off n n]) :
    Reaches s { s with client := [], reads := s.reads ++ [s.crcWord] } := by
  have loop : step s = .next { s with client := [.read 0x18] } := by
    rw [ready.step_eq client, clientStep, crcPass_of_done]
    rfl
  have readyRead : Ready { s with client := [.read 0x18] } := ready.of_sameBus rfl
  have read : step { s with client := [.read 0x18] } =
      .next { s with client := [], reads := s.reads ++ [s.crcWord] } := by
    rw [readyRead.step_eq rfl, clientStep, runRequest_readCrc]
    rfl
  exact .head loop (.head read (.refl _))

end

/-- Settles O54: CRCINIT, the loop of chunks, and the CRC that is read at its end. -/
theorem readcrcReturnsTheCrc : Obligations.ReadcrcReturnsTheCrc := by
  intro s off size F junk later inv turns client idle init prog inRange headers miso
  have ready : Ready s := ⟨inv, turns, idle, init⟩
  have begin := ready.sequence_next client prog (runPseudo_readcrc inRange)
  have crcinit := Ready.writeCrcinit_next (ready.of_sameBus rfl) (rest := [.crcLoop off size.toNat 0])
    (s := { s with rpc := s.rpc + 1, client := readcrcSequence off size }) rfl
  obtain ⟨t, reached, clientEnd, ⟨setup, readyEnd, ss, crc, trace⟩, left⟩ :=
    Ready.crcLoop headers (ready.of_sameBus (t := { s with
      rpc := s.rpc + 1, client := [.crcLoop off size.toNat 0], crc := Config.crcInit }) rfl) rfl le_rfl miso
  rw [Nat.min_eq_right (le_chunkCount size.toNat)] at clientEnd crc
  obtain ⟨k, run⟩ := Reaches.head begin (.head crcinit (reached.trans (readyEnd.crcLoop_end clientEnd)))
  have none : chunkCount size.toNat = 0 ↔ size = 0#32 := by
    rw [chunkCount]
    bv_omega
  refine ⟨k, _, run, rfl, setup.rpc, readyEnd.idle, ?_, setup.err, setup.marks, left, crc, ?_, trace⟩
  · exact ss.trans (by simp only [none])
  · rw [List.getLast?_concat, State.crcWord, crc]
    rfl

end Sys2Proof.Machine
end
